-- ==== Sys2Proof/Word.lean ====
section
/-! DEFINITION. The word types of the machine (00_scope.md R7; 10_state.md R20, R23, R24). All values are unsigned. -/

namespace Sys2Proof

/-- A byte: a V register, a memory cell, a timer, an immediate `kk` (R8). -/
abbrev Byte := BitVec 8

/-- A 16-bit word: I, PC, a stack slot, an opcode (R8). -/
abbrev Word := BitVec 16

/-- The 12-bit address field `nnn` (R81). -/
abbrev Addr12 := BitVec 12

/-- The 4-bit immediate nibble `n` (R81). -/
abbrev Nibble := BitVec 4

/-- A general-register index, 0 .. 15 for V0 .. VF (R20). -/
abbrev Reg := Fin 16

/-- The index of the flag register VF (R21). -/
abbrev vf : Reg := 15

end Sys2Proof
end

