-- ==== Sys2Proof/Syntax.lean ====
section
/-! DEFINITION. The instructions: one constructor for each row of spec/opcode_table.json (30_encoding.md R86), in the
table's order. Operands are the fields of R81: `x`, `y` register indices, `kk` a byte, `n` a nibble, `nnn` an address. -/

namespace Sys2Proof

/-- An instruction with its operand fields (R83). -/
inductive Instr where
  /-- `00E0` CLS, R181. -/
  | cls
  /-- `00EE` RET, R122. -/
  | ret
  /-- `0nnn` SYS nnn, R121. -/
  | sys (nnn : Addr12)
  /-- `1nnn` JP nnn, R123. -/
  | jp (nnn : Addr12)
  /-- `2nnn` CALL nnn, R124. -/
  | call (nnn : Addr12)
  /-- `3xkk` SE Vx,kk, R125. -/
  | seVxKk (x : Reg) (kk : Byte)
  /-- `4xkk` SNE Vx,kk, R126. -/
  | sneVxKk (x : Reg) (kk : Byte)
  /-- `5xy0` SE Vx,Vy, R127. -/
  | seVxVy (x y : Reg)
  /-- `6xkk` LD Vx,kk, R141. -/
  | ldVxKk (x : Reg) (kk : Byte)
  /-- `7xkk` ADD Vx,kk, R142. -/
  | addVxKk (x : Reg) (kk : Byte)
  /-- `8xy0` LD Vx,Vy, R143. -/
  | ldVxVy (x y : Reg)
  /-- `8xy1` OR Vx,Vy, R144. -/
  | orVxVy (x y : Reg)
  /-- `8xy2` AND Vx,Vy, R145. -/
  | andVxVy (x y : Reg)
  /-- `8xy3` XOR Vx,Vy, R146. -/
  | xorVxVy (x y : Reg)
  /-- `8xy4` ADD Vx,Vy, R147. -/
  | addVxVy (x y : Reg)
  /-- `8xy5` SUB Vx,Vy, R148. -/
  | subVxVy (x y : Reg)
  /-- `8xy6` SHR Vx,Vy, R149; `y` is decoded and ignored (R82). -/
  | shrVxVy (x y : Reg)
  /-- `8xy7` SUBN Vx,Vy, R150. -/
  | subnVxVy (x y : Reg)
  /-- `8xyE` SHL Vx,Vy, R151; `y` is decoded and ignored (R82). -/
  | shlVxVy (x y : Reg)
  /-- `9xy0` SNE Vx,Vy, R128. -/
  | sneVxVy (x y : Reg)
  /-- `Annn` LD I,nnn, R166. -/
  | ldINnn (nnn : Addr12)
  /-- `Bnnn` JP V0,nnn, R129. -/
  | jpV0Nnn (nnn : Addr12)
  /-- `Cxkk` RND Vx,kk, R155. -/
  | rndVxKk (x : Reg) (kk : Byte)
  /-- `Dxyn` DRW Vx,Vy,n, R183. -/
  | drwVxVyN (x y : Reg) (n : Nibble)
  /-- `Ex9E` SKP Vx, R191. -/
  | skpVx (x : Reg)
  /-- `ExA1` SKNP Vx, R192. -/
  | sknpVx (x : Reg)
  /-- `Fx07` LD Vx,DT, R194. -/
  | ldVxDt (x : Reg)
  /-- `Fx0A` LD Vx,K, R193. -/
  | ldVxK (x : Reg)
  /-- `Fx15` LD DT,Vx, R195. -/
  | ldDtVx (x : Reg)
  /-- `Fx18` LD ST,Vx, R196. -/
  | ldStVx (x : Reg)
  /-- `Fx1E` ADD I,Vx, R167. -/
  | addIVx (x : Reg)
  /-- `Fx29` LD F,Vx, R168. -/
  | ldFVx (x : Reg)
  /-- `Fx33` LD B,Vx, R169. -/
  | ldBVx (x : Reg)
  /-- `Fx55` LD [I],Vx, R170. -/
  | ldMemIVx (x : Reg)
  /-- `Fx65` LD Vx,[I], R171. -/
  | ldVxMemI (x : Reg)
deriving DecidableEq, Repr

end Sys2Proof
end

