-- ==== Sys2Proof/Decode.lean ====
section
/-! DEFINITION. The decoder of 30_encoding.md (R81 to R88): an ordered list of (mask, pattern) descriptors and the first
match; then the encoder, written from the format table R82 and the shapes of R86. Rows not pinned by the source carry the
mark INFERRED (R94; log 10). -/

namespace Sys2Proof

/-- The operand fields of an opcode (R81). -/
structure Fields where
  nnn : Addr12
  kk  : Byte
  n   : Nibble
  x   : Reg
  y   : Reg
deriving DecidableEq, Repr

/-- Operand extraction (R81, R83): each field is a bit range of the opcode, moved to bit 0, zero-extended. -/
def fieldsOf (op : Word) : Fields where
  nnn := op.extractLsb' 0 12
  kk  := op.extractLsb' 0 8
  n   := op.extractLsb' 0 4
  x   := (op.extractLsb' 8 4).toFin
  y   := (op.extractLsb' 4 4).toFin

/-- A descriptor (R84): mask, pattern, and how the operands make the instruction. -/
structure Descriptor where
  mask    : Word
  pattern : Word
  build   : Fields → Instr

/-- `match iff (opcode & mask) == pattern` (R84). -/
def Descriptor.accepts (d : Descriptor) (op : Word) : Bool := op &&& d.mask == d.pattern

/-- The rows that share the prefix 0x0: priority 1, 2, 3 (R85). -/
def systemRows : List Descriptor :=
  [⟨0xFFFF, 0x00E0, fun _ => .cls⟩,
   ⟨0xFFFF, 0x00EE, fun _ => .ret⟩,
   ⟨0xF000, 0x0000, fun f => .sys f.nnn⟩]

/-- Control transfer and immediate rows. INFERRED: all but 2nnn and 6xkk. -/
def immediateRows : List Descriptor :=
  [⟨0xF000, 0x1000, fun f => .jp f.nnn⟩,
   ⟨0xF000, 0x2000, fun f => .call f.nnn⟩,
   ⟨0xF000, 0x3000, fun f => .seVxKk f.x f.kk⟩,
   ⟨0xF000, 0x4000, fun f => .sneVxKk f.x f.kk⟩,
   ⟨0xF00F, 0x5000, fun f => .seVxVy f.x f.y⟩,
   ⟨0xF000, 0x6000, fun f => .ldVxKk f.x f.kk⟩,
   ⟨0xF000, 0x7000, fun f => .addVxKk f.x f.kk⟩]

/-- The register-register rows. INFERRED: all but 8xy4. -/
def registerRows : List Descriptor :=
  [⟨0xF00F, 0x8000, fun f => .ldVxVy f.x f.y⟩,
   ⟨0xF00F, 0x8001, fun f => .orVxVy f.x f.y⟩,
   ⟨0xF00F, 0x8002, fun f => .andVxVy f.x f.y⟩,
   ⟨0xF00F, 0x8003, fun f => .xorVxVy f.x f.y⟩,
   ⟨0xF00F, 0x8004, fun f => .addVxVy f.x f.y⟩,
   ⟨0xF00F, 0x8005, fun f => .subVxVy f.x f.y⟩,
   ⟨0xF00F, 0x8006, fun f => .shrVxVy f.x f.y⟩,
   ⟨0xF00F, 0x8007, fun f => .subnVxVy f.x f.y⟩,
   ⟨0xF00F, 0x800E, fun f => .shlVxVy f.x f.y⟩,
   ⟨0xF00F, 0x9000, fun f => .sneVxVy f.x f.y⟩]

/-- Index, indexed jump, random and draw rows. INFERRED: all. -/
def indexRows : List Descriptor :=
  [⟨0xF000, 0xA000, fun f => .ldINnn f.nnn⟩,
   ⟨0xF000, 0xB000, fun f => .jpV0Nnn f.nnn⟩,
   ⟨0xF000, 0xC000, fun f => .rndVxKk f.x f.kk⟩,
   ⟨0xF000, 0xD000, fun f => .drwVxVyN f.x f.y f.n⟩]

/-- The key, timer and memory rows of format X. INFERRED: all. -/
def unaryRows : List Descriptor :=
  [⟨0xF0FF, 0xE09E, fun f => .skpVx f.x⟩,
   ⟨0xF0FF, 0xE0A1, fun f => .sknpVx f.x⟩,
   ⟨0xF0FF, 0xF007, fun f => .ldVxDt f.x⟩,
   ⟨0xF0FF, 0xF00A, fun f => .ldVxK f.x⟩,
   ⟨0xF0FF, 0xF015, fun f => .ldDtVx f.x⟩,
   ⟨0xF0FF, 0xF018, fun f => .ldStVx f.x⟩,
   ⟨0xF0FF, 0xF01E, fun f => .addIVx f.x⟩,
   ⟨0xF0FF, 0xF029, fun f => .ldFVx f.x⟩,
   ⟨0xF0FF, 0xF033, fun f => .ldBVx f.x⟩,
   ⟨0xF0FF, 0xF055, fun f => .ldMemIVx f.x⟩,
   ⟨0xF0FF, 0xF065, fun f => .ldVxMemI f.x⟩]

/-- The opcode map in decoder priority order (R85, R86). -/
def opcodeMap : List Descriptor :=
  systemRows ++ immediateRows ++ registerRows ++ indexRows ++ unaryRows

/-- The first row of a list that accepts the opcode, applied to its fields (R84). -/
def firstMatch (op : Word) : List Descriptor → Option Instr
  | [] => none
  | d :: rest => if d.accepts op then some (d.build (fieldsOf op)) else firstMatch op rest

/-- `decode(op)` (R84, R104): the first matching row, or `none` for a decode failure. Total on all 65536 opcodes. -/
def decode (op : Word) : Option Instr := firstMatch op opcodeMap

/-- Why bytes are not an instruction. -/
inductive DecodeReject where
  /-- Fewer than the 2 bytes of an instruction (R80). -/
  | truncated
  /-- The opcode matches no row (R87). -/
  | noDescriptor (opcode : Word)
deriving DecidableEq, Repr

/-- Big-endian assembly of an opcode (20_memory.md R56): the byte at the lower address is bits 15 .. 8. -/
def wordOfBytes (hi lo : Byte) : Word := hi ++ lo

/-- The two bytes of an opcode in ascending address order (R56). -/
def bytesOfWord (op : Word) : List Byte := [op.extractLsb' 8 8, op.extractLsb' 0 8]

/-- Decoding from memory order: the instruction and the bytes after it, or a rejection by name (R80, R84). -/
def decodeBytes : List Byte → Except DecodeReject (Instr × List Byte)
  | hi :: lo :: rest =>
    match decode (wordOfBytes hi lo) with
    | some i => .ok (i, rest)
    | none => .error (.noDescriptor (wordOfBytes hi lo))
  | _ => .error .truncated

/-- The encoder (R82, R86): the word of an instruction, field by field from bit 15 down. -/
def encode : Instr → Word
  | .cls => 0x00E0
  | .ret => 0x00EE
  | .sys nnn => 0x0#4 ++ nnn
  | .jp nnn => 0x1#4 ++ nnn
  | .call nnn => 0x2#4 ++ nnn
  | .seVxKk x kk => 0x3#4 ++ BitVec.ofFin (w := 4) x ++ kk
  | .sneVxKk x kk => 0x4#4 ++ BitVec.ofFin (w := 4) x ++ kk
  | .seVxVy x y => 0x5#4 ++ BitVec.ofFin (w := 4) x ++ BitVec.ofFin (w := 4) y ++ 0x0#4
  | .ldVxKk x kk => 0x6#4 ++ BitVec.ofFin (w := 4) x ++ kk
  | .addVxKk x kk => 0x7#4 ++ BitVec.ofFin (w := 4) x ++ kk
  | .ldVxVy x y => 0x8#4 ++ BitVec.ofFin (w := 4) x ++ BitVec.ofFin (w := 4) y ++ 0x0#4
  | .orVxVy x y => 0x8#4 ++ BitVec.ofFin (w := 4) x ++ BitVec.ofFin (w := 4) y ++ 0x1#4
  | .andVxVy x y => 0x8#4 ++ BitVec.ofFin (w := 4) x ++ BitVec.ofFin (w := 4) y ++ 0x2#4
  | .xorVxVy x y => 0x8#4 ++ BitVec.ofFin (w := 4) x ++ BitVec.ofFin (w := 4) y ++ 0x3#4
  | .addVxVy x y => 0x8#4 ++ BitVec.ofFin (w := 4) x ++ BitVec.ofFin (w := 4) y ++ 0x4#4
  | .subVxVy x y => 0x8#4 ++ BitVec.ofFin (w := 4) x ++ BitVec.ofFin (w := 4) y ++ 0x5#4
  | .shrVxVy x y => 0x8#4 ++ BitVec.ofFin (w := 4) x ++ BitVec.ofFin (w := 4) y ++ 0x6#4
  | .subnVxVy x y => 0x8#4 ++ BitVec.ofFin (w := 4) x ++ BitVec.ofFin (w := 4) y ++ 0x7#4
  | .shlVxVy x y => 0x8#4 ++ BitVec.ofFin (w := 4) x ++ BitVec.ofFin (w := 4) y ++ 0xE#4
  | .sneVxVy x y => 0x9#4 ++ BitVec.ofFin (w := 4) x ++ BitVec.ofFin (w := 4) y ++ 0x0#4
  | .ldINnn nnn => 0xA#4 ++ nnn
  | .jpV0Nnn nnn => 0xB#4 ++ nnn
  | .rndVxKk x kk => 0xC#4 ++ BitVec.ofFin (w := 4) x ++ kk
  | .drwVxVyN x y n => 0xD#4 ++ BitVec.ofFin (w := 4) x ++ BitVec.ofFin (w := 4) y ++ n
  | .skpVx x => 0xE#4 ++ BitVec.ofFin (w := 4) x ++ 0x9E#8
  | .sknpVx x => 0xE#4 ++ BitVec.ofFin (w := 4) x ++ 0xA1#8
  | .ldVxDt x => 0xF#4 ++ BitVec.ofFin (w := 4) x ++ 0x07#8
  | .ldVxK x => 0xF#4 ++ BitVec.ofFin (w := 4) x ++ 0x0A#8
  | .ldDtVx x => 0xF#4 ++ BitVec.ofFin (w := 4) x ++ 0x15#8
  | .ldStVx x => 0xF#4 ++ BitVec.ofFin (w := 4) x ++ 0x18#8
  | .addIVx x => 0xF#4 ++ BitVec.ofFin (w := 4) x ++ 0x1E#8
  | .ldFVx x => 0xF#4 ++ BitVec.ofFin (w := 4) x ++ 0x29#8
  | .ldBVx x => 0xF#4 ++ BitVec.ofFin (w := 4) x ++ 0x33#8
  | .ldMemIVx x => 0xF#4 ++ BitVec.ofFin (w := 4) x ++ 0x55#8
  | .ldVxMemI x => 0xF#4 ++ BitVec.ofFin (w := 4) x ++ 0x65#8

/-- The opcode numbered as spec/opcode_table.json numbers it: the one 16-bit word is bits 15 .. 0 of `w`; bits at and
above `nbits` are 0. -/
def tableWord (nbits w : Nat) : Word := BitVec.ofNat 16 (w % 2 ^ nbits)

/-- The decoder on an instruction given by the table's bits: the word is laid out in memory order and decoded. -/
def decodeTableWord (nbits w : Nat) : Option Instr :=
  match decodeBytes (bytesOfWord (tableWord nbits w)) with
  | .ok (i, _) => some i
  | .error _ => none

end Sys2Proof
end

