-- ==== Sys2Proof/Config.lean ====
section
/-! DEFINITION. What the implementation fixes (00_scope.md R5) and the open parameters (R6): the default font bytes and
the free random bytes. -/

namespace Sys2Proof

/-- `MEM_SIZE` (R5): addresses 0 .. 4095 exist. -/
@[simp] def Config.memSize : Nat := 4096

/-- `PROG_START` (R5): the reset value of PC and the place of the program image. -/
@[simp] def Config.progStart : Nat := 512

/-- `MAX_PROG` (R5) = `MEM_SIZE` - `PROG_START`. -/
@[simp] def Config.maxProg : Nat := 3584

/-- `GLYPH_BYTES` (R5): the stride of the font glyphs. -/
@[simp] def Config.glyphBytes : Nat := 5

/-- `DISP_W` (R5). -/
@[simp] def Config.dispW : Nat := 64

/-- `DISP_H` (R5). -/
@[simp] def Config.dispH : Nat := 32

/-- PRESUMED (log 1): the default value of the open parameter `FONT_ROM`, the conventional hexadecimal font that
20_memory.md R53 prints and marks as general knowledge. `State.reset` installs it in the field `State.fontRom`; every
meaning reads that field, so a statement about every state holds for every font. -/
def Config.fontRomDefault : Vector Byte 80 :=
  #v[0xF0, 0x90, 0x90, 0x90, 0xF0,  0x20, 0x60, 0x20, 0x20, 0x70,
     0xF0, 0x10, 0xF0, 0x80, 0xF0,  0xF0, 0x10, 0xF0, 0x10, 0xF0,
     0x90, 0x90, 0xF0, 0x10, 0x10,  0xF0, 0x80, 0xF0, 0x10, 0xF0,
     0xF0, 0x80, 0xF0, 0x90, 0xF0,  0xF0, 0x10, 0x20, 0x40, 0x40,
     0xF0, 0x90, 0xF0, 0x90, 0xF0,  0xF0, 0x90, 0xF0, 0x10, 0xF0,
     0xF0, 0x90, 0xF0, 0x90, 0x90,  0xE0, 0x90, 0xE0, 0x90, 0xE0,
     0xF0, 0x80, 0x80, 0x80, 0xF0,  0xE0, 0x90, 0x90, 0x90, 0xE0,
     0xF0, 0x80, 0xF0, 0x80, 0xF0,  0xF0, 0x80, 0xF0, 0x80, 0x80]

/-- The free value of the model (log 2): the byte that the port `RND_IN` carries at the k-th sampling (42_load_alu.md
R155; 60_exceptions.md R219; D19). It has no body, so no proof can lean on a value of it. -/
opaque Config.rndIn : Nat → Byte

end Sys2Proof
end

