-- ==== Sys2Proof/Machine/State.lean ====
section
/-! DEFINITION. The state of the block as plain data (10_state.md R20 to R38), the model's own fields for what R35 calls
parameters of the step relation, the fatal conditions (60_exceptions.md R200), and the state after reset. -/

namespace Sys2Proof.Machine

/-- Main memory `MEM` (20_memory.md R50): a list of cells, addresses strictly rising, each below 4096, none equal to what
an unlisted address reads as (`Memory.background`). -/
abbrev Memory := List Host.Cell

/-- The display buffer `DISP` (10_state.md R30): a bitmap of 2048 one-bit cells, cell `yy x 64 + xx` being that bit. -/
abbrev Display := BitVec 2048

/-- One operation of the block, as the host strobes it (40_engine_cycle.md R100, R110). -/
inductive HostOp where
  /-- `STEP`: execute one instruction (R101). -/
  | step
  /-- `TICK`: one timer period (60_exceptions.md R215). -/
  | tick
  /-- `KEYWR`: `KEY[k] <- b` (R109); an index above 15 or a value other than a bit cannot be written (D17, D27). -/
  | keyWrite (k : Fin 16) (b : Bool)
  /-- `RESET` (70_reset_and_hazards.md R230). -/
  | reset
  /-- `LOAD` with the program image (70_reset_and_hazards.md R231). -/
  | loadProgram (bytes : List Byte)
deriving DecidableEq, Repr

/-- An output event of an operation (00_scope.md R8). -/
inductive OutEvent where
  /-- `RENDER`: the display buffer is valid to read (40_engine_cycle.md R106). -/
  | render
  /-- The sound report of a tick (60_exceptions.md R215, R216). -/
  | sound (active : Bool)
deriving DecidableEq, Repr

/-- The complete state (10_state.md). `v` to `mem` are the spec's tuple; the last four are the model's own plain data for
the parameters of R35 (FONT_ROM, RND, schedule) and the output events. -/
structure State where
  /-- `V[0..15]`, VF the last (R20, R21). -/
  v : Vector Byte 16
  /-- `I` (R23). -/
  i : Word
  /-- `PC` (R24, R25). -/
  pc : Word
  /-- `SP`: how many return addresses are held, 0 .. 16 (R27). -/
  sp : Fin 17
  /-- `STACK[0..15]` (R26). -/
  stack : Vector Word 16
  /-- `DT` (R28). -/
  dt : Byte
  /-- `ST` (R29). -/
  st : Byte
  /-- `DISP` (R30). -/
  disp : Display
  /-- `KEY[0..15]`, true = pressed (R31). -/
  key : Vector Bool 16
  /-- `SOUND` (R33). -/
  sound : Bool
  /-- `MEM` (R32, 20_memory.md R50). -/
  mem : Memory
  /-- Model's own: the open parameter `FONT_ROM` (00_scope.md R6, log 1); no operation writes it. -/
  fontRom : Vector Byte 80
  /-- Model's own: how many bytes have been sampled from `RND_IN` (R155, log 2). -/
  draws : Nat
  /-- Model's own: the operations the host will issue, oldest first (R110, log 3). -/
  schedule : List HostOp
  /-- Model's own: the output events of the most recent operation (R10, log 4). -/
  events : List OutEvent
deriving DecidableEq, Repr

/-- The fatal conditions with the info each records (60_exceptions.md R200, cause codes 1 to 8). A fatal ends the operation
and the run (R208): SAFE, the model stops where nothing further can be claimed. -/
inductive Fault where
  /-- Cause 1, raised by the fetch when PC > 4094 (R201). The source's own condition: safe. -/
  | outOfBoundsFetch (pc : Word)
  /-- Cause 2, raised at decode when no row matches (R202). The source's own condition: safe. -/
  | decodeFailure (opcode address : Word)
  /-- Cause 3, raised by CALL with 16 addresses held (R203). The source's own condition: safe. -/
  | stackOverflow (address : Word)
  /-- Cause 4, raised by RET with none held (R204). The source's own condition: safe. -/
  | stackUnderflow (address : Word)
  /-- Cause 5, raised by `loadProgram` for more than 3584 bytes (R205). The source's own condition: safe. -/
  | loadOverflow (length : Nat)
  /-- Cause 6, raised by DRW, LD B, LD [I], LD Vx,[I] when the highest address exceeds 4095 (R206, D7): safe. -/
  | dataAddressOutOfBounds (reached : Nat) (address : Word)
  /-- Cause 7, raised by SKP and SKNP when V[x] > 15 (R206, D11): safe. -/
  | keyIndexOutOfRange (index : Byte) (address : Word)
  /-- Cause 8, raised by every SYS (R206, D6): safe. -/
  | unimplementedSys (nnn : Addr12) (address : Word)
deriving DecidableEq, Repr

/-- The refusals. No meaning of this model refuses. -/
inductive Refusal where
  /-- Raised by exec's arm of an instruction without a meaning; no arm is one. Safe. -/
  | notModelled (mnemonic : String)
deriving DecidableEq, Repr

/-- How an instruction ends. -/
abbrev Result := Host.Outcome State Fault Refusal

/-- The state right after reset or power-on (R38, R232) of an implementation with the given FONT_ROM. Memory lists nothing:
an unlisted address reads as its reset content. The model's own fields: no draw yet, nothing scheduled, no event. -/
def State.resetWith (fontRom : Vector Byte 80) : State where
  v := Vector.replicate 16 0
  i := 0
  pc := 512
  sp := 0
  stack := Vector.replicate 16 0
  dt := 0
  st := 0
  disp := 0
  key := Vector.replicate 16 false
  sound := false
  mem := []
  fontRom := fontRom
  draws := 0
  schedule := []
  events := []

/-- The state right after reset, with the default font (R53, log 1). -/
def State.reset : State := State.resetWith Config.fontRomDefault

end Sys2Proof.Machine
end

