-- ==== Sys2Proof/Machine/Ops.lean ====
section
/-! DEFINITION. The named operations over registers, stack, memory, display and keys; taking a fatal (60_exceptions.md
R207, R208); the free random byte. Every meaning goes through these. -/

namespace Sys2Proof.Machine

/-! ### Registers -/

/-- `V[r]` (00_scope.md R8). -/
def State.getV (s : State) (r : Reg) : Byte := s.v[r]

/-- `V[r] <- b`. -/
def State.setV (s : State) (r : Reg) (b : Byte) : State := { s with v := s.v.set r b }

/-- `I <- w`. -/
def State.setI (s : State) (w : Word) : State := { s with i := w }

/-- `PC <- target`. -/
def State.setPc (s : State) (w : Word) : State := { s with pc := w }

/-- `DT <- b`. -/
def State.setDt (s : State) (b : Byte) : State := { s with dt := b }

/-- `ST <- b`. -/
def State.setSt (s : State) (b : Byte) : State := { s with st := b }

/-- `DISP <- d`, all cells at once. -/
def State.setDisp (s : State) (d : Display) : State := { s with disp := d }

/-- `MEM <- m`. -/
def State.setMem (s : State) (m : Memory) : State := { s with mem := m }

/-- Leaves the output events of an operation. -/
def State.emit (s : State) (es : List OutEvent) : State := { s with events := es }

/-- The advance after a fetch (40_engine_cycle.md R103). -/
def State.advancePc (s : State) : State := s.setPc (s.pc + 2)

/-- The rewind of wait-for-key (45_keypad_timers.md R193). -/
def State.rewindPc (s : State) : State := s.setPc (s.pc - 2)

/-- During execute, the address of the instruction itself (R103). -/
def State.instrAddress (s : State) : Word := s.pc - 2

/-- A skip instruction's effect (41_control_transfer.md R131): two more bytes iff the condition holds. -/
def State.skipIf (s : State) (condition : Bool) : State :=
  if condition then s.setPc (s.pc + 2) else s

/-! ### The call stack (10_state.md R26, R27) -/

/-- `STACK[SP] <- w; SP <- SP + 1`, or `none` when 16 addresses are held. -/
def State.push (s : State) (w : Word) : Option State :=
  if h : s.sp.val < 16 then
    some { s with stack := s.stack.set s.sp.val w, sp := ⟨s.sp.val + 1, Nat.succ_lt_succ h⟩ }
  else none

/-- `SP <- SP - 1`, with the word `STACK[SP]` popped, or `none` when none is held. The slot keeps its value. -/
def State.pop (s : State) : Option (Word × State) :=
  if h : 0 < s.sp.val then
    some (s.stack[s.sp.val - 1]'(Nat.sub_one_lt_of_le h (Nat.le_of_lt_succ s.sp.isLt)),
      { s with sp := ⟨s.sp.val - 1, Nat.lt_of_le_of_lt (Nat.sub_le _ _) s.sp.isLt⟩ })
  else none

/-! ### Memory (20_memory.md) -/

/-- What an unlisted address reads as: the reset content (R38, R51), FONT_ROM at 0 .. 79 and 0 above. -/
def Memory.background (fontRom : Vector Byte 80) (a : Nat) : Byte :=
  if h : a < 80 then fontRom[a] else 0

/-- The byte listed for an address. -/
def Memory.lookup : Memory → Nat → Option Byte
  | [], _ => none
  | (k, b) :: rest, a => if k = a then some b else Memory.lookup rest a

/-- `MemRead(a, 1)` (00_scope.md R8). No meaning presents an address above 4095 (R50, log 20). -/
def Memory.read (fontRom : Vector Byte 80) (m : Memory) (a : Nat) : Byte :=
  (Memory.lookup m a).getD (Memory.background fontRom a)

/-- Lists a byte for an address, or unlists the address, keeping the addresses rising. -/
def Memory.put : Memory → Nat → Option Byte → Memory
  | [], a, v => v.toList.map (fun b => (a, b))
  | (k, c) :: rest, a, v =>
    if a < k then v.toList.map (fun b => (a, b)) ++ (k, c) :: rest
    else if a = k then v.toList.map (fun b => (a, b)) ++ rest
    else (k, c) :: Memory.put rest a v

/-- `MemWrite(a, 1, b)` (00_scope.md R8): the byte is listed unless it is the address's background. An address above 4095
does not exist and nothing is stored there; no meaning presents one (R50, log 20). -/
def Memory.write (fontRom : Vector Byte 80) (m : Memory) (a : Nat) (b : Byte) : Memory :=
  if a < Config.memSize then
    Memory.put m a (if b = Memory.background fontRom a then none else some b)
  else m

/-- Bytes stored at ascending addresses from `a` (R57). The addresses differ, so the order of the single stores, here the
highest first, cannot be observed (R61, R63; log 21). -/
def Memory.writeBytes (fontRom : Vector Byte 80) (m : Memory) (a : Nat) : List Byte → Memory
  | [] => m
  | b :: bs => Memory.write fontRom (Memory.writeBytes fontRom m (a + 1) bs) a b

/-- The bytes at `a`, `a + 1`, …, `a + n - 1` (R57). -/
def Memory.readBytes (fontRom : Vector Byte 80) (m : Memory) (a : Nat) : Nat → List Byte
  | 0 => []
  | n + 1 => Memory.read fontRom m a :: Memory.readBytes fontRom m (a + 1) n

/-- The canonical form of memory: addresses strictly rising, each one that exists, none listed with its background. -/
abbrev Memory.wf (fontRom : Vector Byte 80) (m : Memory) : Prop :=
  m.Pairwise (fun c d => c.1 < d.1) ∧
    ∀ c ∈ m, c.1 < 4096 ∧ c.2 ≠ Memory.background fontRom c.1

/-- `MEM[a]` of a state. -/
def State.readByte (s : State) (a : Nat) : Byte := Memory.read s.fontRom s.mem a

/-- `MEM[a], …, MEM[a + n - 1]` of a state. -/
def State.readBytes (s : State) (a n : Nat) : List Byte := Memory.readBytes s.fontRom s.mem a n

/-- Stores bytes at ascending addresses from `a`. -/
def State.storeBytes (s : State) (a : Nat) (bs : List Byte) : State :=
  s.setMem (Memory.writeBytes s.fontRom s.mem a bs)

/-- `MemRead(PC, 2)`: the opcode at PC, big-endian (R56, R102). -/
def State.fetchWord (s : State) : Word :=
  wordOfBytes (s.readByte s.pc.toNat) (s.readByte (s.pc.toNat + 1))

/-- `V[0], …, V[x]` in ascending order (43_index_memory.md R170). -/
def State.regsUpTo (s : State) (x : Reg) : List Byte := s.v.toList.take (x.val + 1)

/-- `V[j] <- MEM[a + j]` for j = 0 .. x, the registers above x unchanged (43_index_memory.md R171). -/
def State.loadRegsUpTo (s : State) (a : Nat) (x : Reg) : State :=
  { s with v := Vector.ofFn fun j => if j.val ≤ x.val then s.readByte (a + j.val) else s.v[j] }

/-! ### Display (44_display.md) -/

/-- The cell index of column `xx` and row `yy` (R180). -/
def Display.cellIndex (xx yy : Nat) : Nat := yy * Config.dispW + xx

/-- `DISP[c]`. -/
def Display.cell (d : Display) (c : Nat) : Bool := d.getLsbD c

/-- `DISP[c] <- DISP[c] ^ 1`. -/
def Display.toggle (d : Display) (c : Nat) : Display := d ^^^ BitVec.twoPow 2048 c

/-- The cells under the 1 pixels of one sprite row (R182, R183): pixel column c is bit 7 - c, and every pixel's column wraps
modulo 64 within its own row `cy`. -/
def Display.rowCells (x0 cy : Nat) (row : Byte) : List Nat :=
  (List.range 8).filterMap fun c =>
    if row.getLsbD (7 - c) then some (Display.cellIndex ((x0 + c) % Config.dispW) cy) else none

/-- The cells under the 1 pixels of a sprite, in drawing order (R183): row r of the sprite goes to row (y0 + r) mod 32. -/
def Display.spriteCells (x0 y0 : Nat) : Nat → List Byte → List Nat
  | _, [] => []
  | r, row :: rows =>
    Display.rowCells x0 ((y0 + r) % Config.dispH) row ++ Display.spriteCells x0 y0 (r + 1) rows

/-- One 1 pixel (R183): a set cell about to be cleared is a hit; the cell is toggled. -/
def Display.plot (acc : Display × Bool) (c : Nat) : Display × Bool :=
  (Display.toggle acc.1 c, acc.2 || Display.cell acc.1 c)

/-- The sprite drawn at (x0, y0), and whether a set cell was cleared (R183). -/
def Display.drawSprite (d : Display) (x0 y0 : Nat) (rows : List Byte) : Display × Bool :=
  (Display.spriteCells x0 y0 0 rows).foldl Display.plot (d, false)

/-! ### Keys (45_keypad_timers.md) -/

/-- `KEY[k] = 1`. -/
def State.pressed (s : State) (k : Fin 16) : Bool := s.key[k]

/-- The least pressed key, if any (R193). -/
def State.leastPressed (s : State) : Option (Fin 16) := (List.finRange 16).find? s.pressed

/-! ### The random source -/

/-- `draw()` (00_scope.md R8; 42_load_alu.md R155): the byte at RND_IN, sampled once; the next sampling draws afresh. -/
def State.draw (s : State) : Byte × State := (Config.rndIn s.draws, { s with draws := s.draws + 1 })

/-! ### Fatals -/

/-- `raise Fatal(c, info)` (00_scope.md R8): the one way an instruction takes its exception. There is no handler, nothing
is saved and nothing is committed (60_exceptions.md R207, R208); nothing returns from it (R211). -/
def raise (f : Fault) : Result := .fault f

/-- The cause code of a fatal (60_exceptions.md R200). -/
def Fault.cause : Fault → Nat
  | .outOfBoundsFetch _ => 1
  | .decodeFailure _ _ => 2
  | .stackOverflow _ => 3
  | .stackUnderflow _ => 4
  | .loadOverflow _ => 5
  | .dataAddressOutOfBounds _ _ => 6
  | .keyIndexOutOfRange _ _ => 7
  | .unimplementedSys _ _ => 8

end Sys2Proof.Machine
end

