-- ==== Sys2Proof/Machine/Operands.lean ====
section
/-! DEFINITION. The operand forms: register-indirect data addresses through I with their bounds check (20_memory.md R60;
43_index_memory.md R165), the key index in a register (45_keypad_timers.md R191), the target and index computations, and
the decimal digits. -/

namespace Sys2Proof.Machine

/-- `EA(j) = I + j` in unbounded integers (R165). -/
def State.ea (s : State) (j : Nat) : Nat := s.i.toNat + j

/-- A data access of `len` bytes from I (R60): the answer `k` when the range is empty or its highest address is at most
4095, else Fatal cause 6 before any access. -/
def withDataRange (s : State) (len : Nat) (k : Result) : Result :=
  if len = 0 ∨ s.ea (len - 1) < Config.memSize then k
  else raise (.dataAddressOutOfBounds (s.ea (len - 1)) s.instrAddress)

/-- The key named by a register (R191, R192): the answer `k` of it, or Fatal cause 7 above 15. -/
def withKeyIndex (s : State) (x : Reg) (k : Fin 16 → Result) : Result :=
  if h : (s.getV x).toNat < 16 then k ⟨(s.getV x).toNat, h⟩
  else raise (.keyIndexOutOfRange (s.getV x) s.instrAddress)

/-- The absolute target `nnn` (41_control_transfer.md R120). -/
def target (nnn : Addr12) : Word := nnn.zeroExtend 16

/-- The indexed target `nnn + V[0]` (41_control_transfer.md R129), which fits 16 bits. -/
def State.indexedTarget (s : State) (nnn : Addr12) : Word := target nnn + (s.getV 0).zeroExtend 16

/-- `(I + b) mod 65536` (43_index_memory.md R167). -/
def State.indexPlus (s : State) (b : Byte) : Word := BitVec.ofNat 16 (s.i.toNat + b.toNat)

/-- `b x 5` (43_index_memory.md R168). -/
def glyphAddress (b : Byte) : Word := BitVec.ofNat 16 (b.toNat * Config.glyphBytes)

/-- Hundreds, tens and units, each in a byte of its own (43_index_memory.md R169). -/
def bcdDigits (b : Byte) : List Byte :=
  [BitVec.ofNat 8 (b.toNat / 100), BitVec.ofNat 8 (b.toNat / 10 % 10), BitVec.ofNat 8 (b.toNat % 10)]

end Sys2Proof.Machine
end

