-- ==== Sys2Proof/Machine/Flags.lean ====
section
/-! DEFINITION. Results and flags of the flag-writing instructions, computed on exact integers and narrowed at the end
(10_state.md R21; 42_load_alu.md R140, R152), and the order in which they are written (R22). -/

namespace Sys2Proof.Machine

/-- A flag value as stored: 0x00 or 0x01 (R21). -/
def flagByte (b : Bool) : Byte := if b then 1 else 0

/-- `(a + b) mod 256` (R152). -/
def sum8 (a b : Byte) : Byte := BitVec.ofNat 8 (a.toNat + b.toNat)

/-- The flag of ADD: the unsigned sum is above 255 (R147). -/
def carryOf (a b : Byte) : Bool := 255 < a.toNat + b.toNat

/-- `(a - b) mod 256` (R152). -/
def diff8 (a b : Byte) : Byte := BitVec.ofInt 8 (a.toNat - b.toNat : Int)

/-- The flag of SUB and, with the operands swapped, of SUBN: strictly greater (R148, R150). -/
def greaterThan (a b : Byte) : Bool := b.toNat < a.toNat

/-- `a div 2` (R149). -/
def half8 (a : Byte) : Byte := BitVec.ofNat 8 (a.toNat / 2)

/-- The flag of SHR: bit 0 of the value before the shift (R149). -/
def lowBit (a : Byte) : Bool := a.toNat % 2 == 1

/-- `(a x 2) mod 256` (R151). -/
def double8 (a : Byte) : Byte := BitVec.ofNat 8 (a.toNat * 2)

/-- The flag of SHL: bit 7 of the value before the shift (R151). -/
def highBit (a : Byte) : Bool := a.toNat / 128 == 1

/-- `V[15] <- flag` (R21). -/
def State.setFlag (s : State) (flag : Bool) : State := s.setV vf (flagByte flag)

/-- `V[x] <- result; V[15] <- flag`, the flag last (R22). -/
def State.setResultFlag (s : State) (x : Reg) (result : Byte) (flag : Bool) : State :=
  (s.setV x result).setFlag flag

end Sys2Proof.Machine
end

