-- ==== Sys2Proof/Machine/Alu.lean ====
section
/-! DEFINITION. Register load, arithmetic, logic, shifts, random (42_load_alu.md). Operand registers are read before any
write, and a flag is written last (R22, R140). -/

namespace Sys2Proof.Machine

/-- LD Vx,kk (R141). -/
def execLdVxKk (x : Reg) (kk : Byte) (s : State) : Result := .next (s.setV x kk)

/-- ADD Vx,kk (R142): no flag. -/
def execAddVxKk (x : Reg) (kk : Byte) (s : State) : Result := .next (s.setV x (sum8 (s.getV x) kk))

/-- LD Vx,Vy (R143). -/
def execLdVxVy (x y : Reg) (s : State) : Result := .next (s.setV x (s.getV y))

/-- OR Vx,Vy (R144): no flag. -/
def execOrVxVy (x y : Reg) (s : State) : Result := .next (s.setV x (s.getV x ||| s.getV y))

/-- AND Vx,Vy (R145): no flag. -/
def execAndVxVy (x y : Reg) (s : State) : Result := .next (s.setV x (s.getV x &&& s.getV y))

/-- XOR Vx,Vy (R146): no flag. -/
def execXorVxVy (x y : Reg) (s : State) : Result := .next (s.setV x (s.getV x ^^^ s.getV y))

/-- ADD Vx,Vy (R147): VF = carry out. -/
def execAddVxVy (x y : Reg) (s : State) : Result :=
  .next (s.setResultFlag x (sum8 (s.getV x) (s.getV y)) (carryOf (s.getV x) (s.getV y)))

/-- SUB Vx,Vy (R148): VF = 1 iff Vx > Vy, strictly. -/
def execSubVxVy (x y : Reg) (s : State) : Result :=
  .next (s.setResultFlag x (diff8 (s.getV x) (s.getV y)) (greaterThan (s.getV x) (s.getV y)))

/-- SHR Vx,Vy (R149): Vy is neither read nor written. -/
def execShrVxVy (x _y : Reg) (s : State) : Result :=
  .next (s.setResultFlag x (half8 (s.getV x)) (lowBit (s.getV x)))

/-- SUBN Vx,Vy (R150): VF = 1 iff Vy > Vx, strictly. -/
def execSubnVxVy (x y : Reg) (s : State) : Result :=
  .next (s.setResultFlag x (diff8 (s.getV y) (s.getV x)) (greaterThan (s.getV y) (s.getV x)))

/-- SHL Vx,Vy (R151): Vy is neither read nor written. -/
def execShlVxVy (x _y : Reg) (s : State) : Result :=
  .next (s.setResultFlag x (double8 (s.getV x)) (highBit (s.getV x)))

/-- RND Vx,kk (R155): the byte drawn from RND_IN, masked with kk. -/
def execRndVxKk (x : Reg) (kk : Byte) (s : State) : Result :=
  .next (s.draw.2.setV x (s.draw.1 &&& kk))

end Sys2Proof.Machine
end

