-- ==== Sys2Proof/Machine/Control.lean ====
section
/-! DEFINITION. Control transfer (41_control_transfer.md): SYS, RET, JP, CALL, the register skips, JP V0. Each meaning starts
with PC already past the instruction (40_engine_cycle.md R103). -/

namespace Sys2Proof.Machine

/-- SYS nnn (R121): always Fatal cause 8. -/
def execSys (nnn : Addr12) (s : State) : Result :=
  raise (.unimplementedSys nnn s.instrAddress)

/-- RET (R122): the popped value is used as it is; Fatal cause 4 on an empty stack. -/
def execRet (s : State) : Result :=
  match s.pop with
  | some (w, t) => .next (t.setPc w)
  | none => raise (.stackUnderflow s.instrAddress)

/-- JP nnn (R123). -/
def execJp (nnn : Addr12) (s : State) : Result := .next (s.setPc (target nnn))

/-- CALL nnn (R124): pushes the advanced PC; Fatal cause 3 when 16 addresses are held. -/
def execCall (nnn : Addr12) (s : State) : Result :=
  match s.push s.pc with
  | some t => .next (t.setPc (target nnn))
  | none => raise (.stackOverflow s.instrAddress)

/-- SE Vx,kk (R125). -/
def execSeVxKk (x : Reg) (kk : Byte) (s : State) : Result := .next (s.skipIf (s.getV x == kk))

/-- SNE Vx,kk (R126). -/
def execSneVxKk (x : Reg) (kk : Byte) (s : State) : Result := .next (s.skipIf (s.getV x != kk))

/-- SE Vx,Vy (R127). -/
def execSeVxVy (x y : Reg) (s : State) : Result := .next (s.skipIf (s.getV x == s.getV y))

/-- SNE Vx,Vy (R128). -/
def execSneVxVy (x y : Reg) (s : State) : Result := .next (s.skipIf (s.getV x != s.getV y))

/-- JP V0,nnn (R129): the offset register is always V0. -/
def execJpV0Nnn (nnn : Addr12) (s : State) : Result := .next (s.setPc (s.indexedTarget nnn))

end Sys2Proof.Machine
end

