-- ==== Sys2Proof/Machine/Index.lean ====
section
/-! DEFINITION. The index register and the memory transfers (43_index_memory.md). I is never changed by a transfer (R165,
D14), and no flag is written. -/

namespace Sys2Proof.Machine

/-- LD I,nnn (R166): bits 15 .. 12 of I become 0. -/
def execLdINnn (nnn : Addr12) (s : State) : Result := .next (s.setI (target nnn))

/-- ADD I,Vx (R167): modulo 65536, no flag. -/
def execAddIVx (x : Reg) (s : State) : Result := .next (s.setI (s.indexPlus (s.getV x)))

/-- LD F,Vx (R168): V[x] is not masked. -/
def execLdFVx (x : Reg) (s : State) : Result := .next (s.setI (glyphAddress (s.getV x)))

/-- LD B,Vx (R169). -/
def execLdBVx (x : Reg) (s : State) : Result :=
  withDataRange s 3 (.next (s.storeBytes (s.ea 0) (bcdDigits (s.getV x))))

/-- LD [I],Vx (R170): V[0] .. V[x]. -/
def execLdMemIVx (x : Reg) (s : State) : Result :=
  withDataRange s (x.val + 1) (.next (s.storeBytes (s.ea 0) (s.regsUpTo x)))

/-- LD Vx,[I] (R171): V[0] .. V[x]. -/
def execLdVxMemI (x : Reg) (s : State) : Result :=
  withDataRange s (x.val + 1) (.next (s.loadRegsUpTo (s.ea 0) x))

end Sys2Proof.Machine
end

