-- ==== Sys2Proof/Machine/KeyTimer.lean ====
section
/-! DEFINITION. The keypad and timer instructions (45_keypad_timers.md). -/

namespace Sys2Proof.Machine

/-- SKP Vx (R191). -/
def execSkpVx (x : Reg) (s : State) : Result :=
  withKeyIndex s x fun k => .next (s.skipIf (s.pressed k))

/-- SKNP Vx (R192). -/
def execSknpVx (x : Reg) (s : State) : Result :=
  withKeyIndex s x fun k => .next (s.skipIf (!s.pressed k))

/-- LD Vx,DT (R194). -/
def execLdVxDt (x : Reg) (s : State) : Result := .next (s.setV x s.dt)

/-- LD Vx,K (R193): press-triggered; with no key pressed PC goes back to the instruction's own address. -/
def execLdVxK (x : Reg) (s : State) : Result :=
  match s.leastPressed with
  | some k => .next (s.setV x (BitVec.ofNat 8 k.val))
  | none => .next s.rewindPc

/-- LD DT,Vx (R195). -/
def execLdDtVx (x : Reg) (s : State) : Result := .next (s.setDt (s.getV x))

/-- LD ST,Vx (R196): SOUND is not touched. -/
def execLdStVx (x : Reg) (s : State) : Result := .next (s.setSt (s.getV x))

end Sys2Proof.Machine
end

