-- ==== Sys2Proof/Machine/Screen.lean ====
section
/-! DEFINITION. The display instructions (44_display.md): clear-screen and the sprite draw with collision detection. -/

namespace Sys2Proof.Machine

/-- CLS (R181). -/
def execCls (s : State) : Result := .next (s.setDisp 0)

/-- The display and the collision bit that DRW leaves (R183), from the coordinates read before any write. -/
def drawn (x y : Reg) (n : Nibble) (s : State) : Display × Bool :=
  s.disp.drawSprite ((s.getV x).toNat % Config.dispW) ((s.getV y).toNat % Config.dispH)
    (s.readBytes (s.ea 0) n.toNat)

/-- DRW Vx,Vy,n (R183): the sprite of n rows at I, then VF = collision, also when n = 0. -/
def execDrwVxVyN (x y : Reg) (n : Nibble) (s : State) : Result :=
  withDataRange s n.toNat (.next ((s.setDisp (drawn x y n s).1).setFlag (drawn x y n s).2))

end Sys2Proof.Machine
end

