-- ==== Sys2Proof/Machine/Ports.lean ====
section
/-! DEFINITION. The operations of the block other than `step`: `tick` (60_exceptions.md R215), `keyWrite`
(40_engine_cycle.md R109), `reset` and `loadProgram` (70_reset_and_hazards.md R230, R231). -/

namespace Sys2Proof.Machine

/-- How an operation of the block ends (00_scope.md R10): `ok` with the new state, its output events in the field
`events`; or `fatal` with the state that R207 says it leaves. `refused` passes on a refusal of the dispatch; no arm refuses. -/
inductive OpResult where
  | ok (s : State)
  | fatal (f : Fault) (left : State)
  | refused (r : Refusal)
deriving DecidableEq, Repr

/-- A timer decrement, clamped at zero (10_state.md R28). -/
def countDown (b : Byte) : Byte := if b.toNat > 0 then BitVec.ofNat 8 (b.toNat - 1) else b

/-- The timer unit's part of the state after a tick (R215): both timers down by one, SOUND from ST as just decremented. -/
def State.tickTimers (s : State) : State :=
  { s with dt := countDown s.dt, st := countDown s.st, sound := countDown s.st != 0 }

/-- `tick` (R215), with its sound report. -/
def State.tick (s : State) : State := s.tickTimers.emit [.sound s.tickTimers.sound]

/-- `keyWrite(k, b)` (R109): no event. -/
def State.keyWrite (s : State) (k : Fin 16) (b : Bool) : State :=
  { s with key := s.key.set k b, events := [] }

/-- `reset` (R230): the reset state of this implementation's font. The model's own fields that stand for the world outside
the block go on: no byte of RND_IN is drawn twice (log 2), and the host's further operations stay scheduled (log 3). -/
def State.resetOp (s : State) : State :=
  { State.resetWith s.fontRom with draws := s.draws, schedule := s.schedule }

/-- `loadProgram(bytes)` (R231): reset, then the size check, then the copy to 512 and up; on Fatal cause 5 the reset state
is left, no byte copied (R207, D21). -/
def State.loadProgram (s : State) (bytes : List Byte) : OpResult :=
  if bytes.length ≤ Config.maxProg then .ok (s.resetOp.storeBytes Config.progStart bytes)
  else .fatal (.loadOverflow bytes.length) s.resetOp

end Sys2Proof.Machine
end

