-- ==== Sys2Proof/Machine/Engine.lean ====
section
/-! DEFINITION. The engine's `step` (40_engine_cycle.md R101 to R106) and the performing of any operation of the block. -/

namespace Sys2Proof.Machine

/-- The end of `step` (R106, R207): Render after a success; after a fatal the state left is the one the instruction started
from, PC advanced and nothing else. -/
def finishStep (started : State) : Result → OpResult
  | .next t => .ok (t.emit [.render])
  | .fault f => .fatal f (started.emit [])
  | .refused r => .refused r

/-- `step` (R101): bounds check, fetch, advance, decode, execute, notify. -/
def State.engineStep (s : State) : OpResult :=
  if 4094 < s.pc.toNat then .fatal (.outOfBoundsFetch s.pc) (s.emit [])
  else
    match decode s.fetchWord with
    | none => .fatal (.decodeFailure s.fetchWord s.pc) (s.advancePc.emit [])
    | some i => finishStep s.advancePc (exec i s.advancePc)

/-- One operation of the block, whole (R110). -/
def State.perform (s : State) : HostOp → OpResult
  | .step => s.engineStep
  | .tick => .ok s.tick
  | .keyWrite k b => .ok (s.keyWrite k b)
  | .reset => .ok s.resetOp
  | .loadProgram bytes => s.loadProgram bytes

/-- The operation that comes next and the state with it taken off the schedule: the oldest one scheduled, and the STEP
strobe where the host has scheduled none (R110, log 3). -/
def State.nextOp (s : State) : HostOp × State :=
  match s.schedule with
  | [] => (.step, s)
  | op :: rest => (op, { s with schedule := rest })

/-- An operation's end as the host's three outcomes: after a fatal the run is over (60_exceptions.md R208, D26). -/
def OpResult.outcome : OpResult → Result
  | .ok s => .next s
  | .fatal f _ => .fault f
  | .refused r => .refused r

/-- The state with the engine's STEP as its next operation and PC at a place that can be fetched; unchanged where it is so
already. -/
def State.readyToStep (s : State) : State :=
  { s with
    schedule := if s.nextOp.1 = .step then s.schedule else .step :: s.schedule
    pc := if s.pc.toNat ≤ 4094 then s.pc else 512 }

end Sys2Proof.Machine
end

