-- ==== Sys2Proof/Machine/Step.lean ====
section
/-! DEFINITION. One transition of the machine: the next operation of the block, performed whole (40_engine_cycle.md R110);
and the placing of one instruction where the next step fetches it. -/

namespace Sys2Proof.Machine

/-- The next operation (`State.nextOp`), performed. -/
def step (s : State) : Host.Outcome State Fault Refusal :=
  (s.nextOp.2.perform s.nextOp.1).outcome

/-- `s` with the instruction of the table's bits stored, in memory order, where the next step fetches (R102). It stands for
the load of a program from outside (log 5). -/
def State.withFetchWord (s : State) (nbits w : Nat) : State :=
  s.readyToStep.storeBytes s.readyToStep.pc.toNat (bytesOfWord (tableWord nbits w))

end Sys2Proof.Machine
end

