-- ==== Sys2Proof/Safety.lean ====
section
/-! DEFINITION. The terms statements are written in: what a transition leaves unchanged, the invariant of the machine, a run
over a schedule of operations, a run without a fatal, and an endless run with the premises on its host. -/

namespace Sys2Proof.Machine

/-- The parts of State, one for each field. -/
inductive Part where
  | v | i | pc | sp | stack | dt | st | disp | key | sound | mem | fontRom | draws | schedule | events
deriving DecidableEq, Repr

/-- The part is the same in both states. For memory: every address reads the same byte. -/
def Part.same (s t : State) : Part → Prop
  | .v => t.v = s.v
  | .i => t.i = s.i
  | .pc => t.pc = s.pc
  | .sp => t.sp = s.sp
  | .stack => t.stack = s.stack
  | .dt => t.dt = s.dt
  | .st => t.st = s.st
  | .disp => t.disp = s.disp
  | .key => t.key = s.key
  | .sound => t.sound = s.sound
  | .mem => ∀ a, t.readByte a = s.readByte a
  | .fontRom => t.fontRom = s.fontRom
  | .draws => t.draws = s.draws
  | .schedule => t.schedule = s.schedule
  | .events => t.events = s.events

/-- The frame: every part not listed is the same before (`s`) and after (`t`). -/
def SameBut (changed : List Part) (s t : State) : Prop :=
  ∀ p : Part, p ∉ changed → p.same s t

/-- Every opcode with these bits under the mask is decoded to the given instruction of its operand fields (30_encoding.md
R83, R84, R86). -/
def DecodesAs (mask pattern : Word) (build : Fields → Instr) : Prop :=
  ∀ op : Word, op &&& mask = pattern → decode op = some (build (fieldsOf op))

/-- The invariant: memory in canonical form; PC at most 0x10FE and every stack slot at most 4096 (10_state.md R25). -/
structure State.Inv (s : State) : Prop where
  memory : Memory.wf s.fontRom s.mem
  pc : s.pc.toNat ≤ 0x10FE
  stack : ∀ j : Fin 16, s.stack[j].toNat ≤ 4096

/-- A sequence of operations, each applied whole to the state left by the one before (40_engine_cycle.md R110), up to the
first fatal (60_exceptions.md R208). -/
def runOps : List HostOp → State → Result
  | [], s => .next { s with schedule := [] }
  | op :: rest, s =>
    match (State.perform { s with schedule := rest } op).outcome with
    | .next t => runOps rest t
    | .fault f => .fault f
    | .refused r => .refused r

/-- The engine fetches `i` at PC: PC is in bounds and the big-endian word there decodes to it (R102, R104). -/
def State.fetches (s : State) (i : Instr) : Prop :=
  s.pc.toNat ≤ 4094 ∧
    decode (BitVec.ofNat 16 ((s.readByte s.pc.toNat).toNat * 256 + (s.readByte (s.pc.toNat + 1)).toNat)) = some i

/-- The instruction completes on `s` with PC two further iff the condition holds, and nothing else changed
(41_control_transfer.md R131). -/
def Skips (i : Instr) (condition : Prop) (s : State) : Prop :=
  ∃ t, exec i s = .next t ∧ (condition → t.pc = s.pc + 2) ∧ (¬ condition → t.pc = s.pc) ∧ SameBut [.pc] s t

/-- The instruction completes on `s` with register `x` holding the number, every other register and every other part
unchanged. -/
def WritesRegister (i : Instr) (x : Reg) (value : Nat) (s : State) : Prop :=
  ∃ t, exec i s = .next t ∧ (t.getV x).toNat = value ∧ (∀ r, r ≠ x → t.getV r = s.getV r) ∧ SameBut [.v] s t

/-- The instruction completes on `s` with VF holding the flag and, unless it is VF, register `x` the number (10_state.md
R22); every other register and every other part unchanged. -/
def WritesRegisterAndFlag (i : Instr) (x : Reg) (value flag : Nat) (s : State) : Prop :=
  ∃ t, exec i s = .next t ∧ (t.getV vf).toNat = flag ∧ (x ≠ vf → (t.getV x).toNat = value) ∧
    (∀ r, r ≠ x → r ≠ vf → t.getV r = s.getV r) ∧ SameBut [.v] s t

/-- The instruction completes on `s` with I holding the number and nothing else changed. -/
def WritesIndex (i : Instr) (value : Nat) (s : State) : Prop :=
  ∃ t, exec i s = .next t ∧ t.i.toNat = value ∧ SameBut [.i] s t

/-- A 1 pixel of the sprite of `n` rows at I, drawn at (V[x] mod 64, V[y] mod 32), falls on column `cx`, row `cy`
(44_display.md R182, R183). -/
def SpriteCovers (x y : Reg) (n : Nibble) (s : State) (cx cy : Nat) : Prop :=
  ∃ r < n.toNat, ∃ c < 8, cx = ((s.getV x).toNat % 64 + c) % 64 ∧ cy = ((s.getV y).toNat % 32 + r) % 32 ∧
    (s.readByte (s.ea r)).getLsbD (7 - c) = true

/-- Every piece of the spec's state is as reset leaves it (10_state.md R38), with a program image at 512 (70_reset_and_hazards.md
R231); no image is the reset state itself. -/
structure IsResetState (font : Vector Byte 80) (image : List Byte) (s : State) : Prop where
  registers : ∀ r, s.getV r = 0
  index : s.i = 0
  pc : s.pc = 0x200
  sp : s.sp.val = 0
  stack : ∀ j : Fin 16, s.stack[j] = 0
  timers : s.dt = 0 ∧ s.st = 0
  display : ∀ c, s.disp.cell c = false
  keys : ∀ k, s.pressed k = false
  sound : s.sound = false
  font : ∀ a, (h : a < 80) → s.readByte a = font[a]
  rest : ∀ a, 80 ≤ a → s.readByte a = if 512 ≤ a then (image[a - 512]?).getD 0 else 0

/-- The six skip instructions with the condition of each (41_control_transfer.md R125 to R128; 45_keypad_timers.md R191,
R192). -/
def skipCondition (s : State) : Instr → Option Prop
  | .seVxKk x kk => some (s.getV x = kk)
  | .sneVxKk x kk => some (s.getV x ≠ kk)
  | .seVxVy x y => some (s.getV x = s.getV y)
  | .sneVxVy x y => some (s.getV x ≠ s.getV y)
  | .skpVx x => some (∃ k : Fin 16, k.val = (s.getV x).toNat ∧ s.pressed k = true)
  | .sknpVx x => some (∃ k : Fin 16, k.val = (s.getV x).toNat ∧ s.pressed k = false)
  | _ => none

/-- A run of `k` steps without a fatal or a refusal. -/
def SafeFor (k : Nat) (s : State) : Prop := ∃ t, Host.Core.run Sys2Proof.core k s = .next t

/-! ### Endless runs and the premises on the host (40_engine_cycle.md R111)

A wait makes progress only under an assumption on the host, which R111 has a model state as a premise. An endless run names
the operation of each transition, so every premise on the host's choices can be said of it. -/

/-- An endless run of the machine: at each transition the host schedules one operation, and the machine takes it without a
fatal (R110). -/
def EndlessRun (ops : Nat → HostOp) (σ : Nat → State) : Prop :=
  ∀ n, step { σ n with schedule := [ops n] } = .next (σ (n + 1))

/-- Weak fairness of the tick agent (R111): at every moment a tick is still to come. A tick is possible at every moment, so this
is the whole of weak fairness. -/
def TickFair (ops : Nat → HostOp) : Prop := ∀ n, ∃ m, n ≤ m ∧ ops m = .tick

/-- The premise on key input (R111): a key write of 1 eventually happens, and a step comes before that key is released. -/
def KeyPressSeen (ops : Nat → HostOp) : Prop :=
  ∃ k m n, m < n ∧ ops m = .keyWrite k true ∧ ops n = .step ∧ ∀ j, m < j → j < n → ops j ≠ .keyWrite k false

/-- The host neither resets nor loads, so the program stays. -/
def KeepsProgram (ops : Nat → HostOp) : Prop := ∀ n, ops n ≠ .reset ∧ ∀ bytes, ops n ≠ .loadProgram bytes

/-- No step of the run executes an instruction of these. -/
def NeverExecutes (is : Instr → Prop) (ops : Nat → HostOp) (σ : Nat → State) : Prop :=
  ∀ n i, ops n = .step → (σ n).fetches i → ¬ is i

end Sys2Proof.Machine
end

