-- ==== Sys2Proof/Certificates/Slice0/Obligations.lean ====
section
/-! DEFINITION. The statements about the machine, each from the numbered rules of spec/; the provers prove them. -/

open Sys2Proof Sys2Proof.Machine

/-! ### Encoding (30_encoding.md) -/

/-- The six words the source pins and one word of each further family (95_test_vectors.md E1 to E3, 2.1 to 2.5). -/
def Obligations.SampleWordsDecode : Prop :=
  [0x00E0, 0x00EE, 0x2206, 0x600A, 0x6105, 0x8014, 0x0FFF, 0xB300, 0xA300, 0xC30F, 0xD015, 0xE59E, 0xF40A, 0xF155, 0x9121].map
      decode =
    [some .cls, some .ret, some (.call 0x206), some (.ldVxKk 0 0x0A), some (.ldVxKk 1 0x05), some (.addVxVy 0 1),
      some (.sys 0xFFF), some (.jpV0Nnn 0x300), some (.ldINnn 0x300), some (.rndVxKk 3 0x0F), some (.drwVxVyN 0 1 5),
      some (.skpVx 5), some (.ldVxK 4), some (.ldMemIVx 1), none]

/-- Encoding and then decoding gives the instruction back, with every operand at every value, from the word and from its two
bytes in memory order. -/
def Obligations.EncodedInstructionsDecodeBack : Prop :=
  ∀ i : Instr, i.wf = true →
    decode (encode i) = some i ∧
      ∀ rest, decodeBytes (bytesOfWord (encode i) ++ rest) = .ok (i, rest)

/-- Each word has one meaning: what decodes is well formed and encodes back to the same 16 bits. -/
def Obligations.DecodedWordsEncodeBack : Prop :=
  ∀ (op : Word) (i : Instr), decode op = some i → i.wf = true ∧ encode i = op

/-- Decoder priority (R85): 00E0, 00EE, 0nnn come first in this order; every opcode matches at most one row, but for 0x00E0
and 0x00EE, which match the system-call row as their second. -/
def Obligations.OnlyTheSystemCallRowOverlaps : Prop :=
  (opcodeMap.take 3).map (fun d => (d.mask, d.pattern)) = [(0xFFFF, 0x00E0), (0xFFFF, 0x00EE), (0xF000, 0x0000)] ∧
    (opcodeMap.filter (fun d => d.accepts 0x00E0)).map (fun d => (d.mask, d.pattern)) = [(0xFFFF, 0x00E0), (0xF000, 0x0000)] ∧
    (opcodeMap.filter (fun d => d.accepts 0x00EE)).map (fun d => (d.mask, d.pattern)) = [(0xFFFF, 0x00EE), (0xF000, 0x0000)] ∧
    ∀ op : Word, op ≠ 0x00E0 → op ≠ 0x00EE → (opcodeMap.filter (fun d => d.accepts op)).length ≤ 1

/-- Operand extraction (R83): each field is the masked opcode shifted right, as an unsigned number. -/
def Obligations.OperandFieldsAreMaskedAndShifted : Prop :=
  ∀ op : Word,
    (fieldsOf op).nnn.toNat = (op &&& 0x0FFF).toNat ∧ (fieldsOf op).kk.toNat = (op &&& 0x00FF).toNat ∧
      (fieldsOf op).n.toNat = (op &&& 0x000F).toNat ∧ (fieldsOf op).x.val = ((op &&& 0x0F00) >>> 8).toNat ∧
      (fieldsOf op).y.val = ((op &&& 0x00F0) >>> 4).toNat

/-- The illegal encodings (R87), class by class. -/
def Obligations.UndecodableWordsAreExactlyTheFiveClasses : Prop :=
  ∀ op : Word, decode op = none ↔
    (op.toNat / 4096 = 0x5 ∧ op.toNat % 16 ≠ 0) ∨ (op.toNat / 4096 = 0x9 ∧ op.toNat % 16 ≠ 0) ∨
      (op.toNat / 4096 = 0x8 ∧ op.toNat % 16 ∈ [0x8, 0x9, 0xA, 0xB, 0xC, 0xD, 0xF]) ∨
      (op.toNat / 4096 = 0xE ∧ op.toNat % 256 ∉ [0x9E, 0xA1]) ∨
      (op.toNat / 4096 = 0xF ∧ op.toNat % 256 ∉ [0x07, 0x0A, 0x15, 0x18, 0x1E, 0x29, 0x33, 0x55, 0x65])

/-! ### The engine cycle and the operations of the block (40_engine_cycle.md, 60_exceptions.md, 70_reset_and_hazards.md) -/

/-- The engine's step (R101), on every state whose next operation is STEP (nothing scheduled, or STEP the oldest; log 3): the
bounds check, the big-endian fetch, the advance, decode, execute, Render. -/
def Obligations.StepRunsTheDecodedInstruction : Prop :=
  ∀ s u : State, (s.schedule = [] ∧ u = s ∨ ∃ rest, s.schedule = .step :: rest ∧ u = { s with schedule := rest }) →
    (4094 < u.pc.toNat → step s = .fault (.outOfBoundsFetch u.pc)) ∧
      ∀ op : Word,
        u.pc.toNat ≤ 4094 →
        op = BitVec.ofNat 16 ((u.readByte u.pc.toNat).toNat * 256 + (u.readByte (u.pc.toNat + 1)).toNat) →
        (decode op = none → step s = .fault (.decodeFailure op u.pc)) ∧
          ∀ i, decode op = some i →
            (∀ t, exec i { u with pc := u.pc + 2 } = .next t → step s = .next { t with events := [.render] }) ∧
              ∀ f, exec i { u with pc := u.pc + 2 } = .fault f → step s = .fault f

/-- Running the machine on any finite schedule is applying its operations whole, one after the other, up to the first fatal
(R110; that the schedule is a field of State, and how, is the model's choice, log 3). -/
def Obligations.RunsAreSerialisedOperations : Prop :=
  ∀ (ops : List HostOp) (s : State), Host.Core.run Sys2Proof.core ops.length { s with schedule := ops } = runOps ops s

/-- The state a fatal leaves (R207). -/
def Obligations.FatalsArePrecise : Prop :=
  ∀ (s t : State) (op : HostOp) (f : Fault), s.perform op = .fatal f t →
    t.events = [] ∧ (f.cause = 1 → SameBut [.events] s t) ∧
      (f.cause = 5 → IsResetState s.fontRom [] t) ∧
      (f.cause ≠ 1 → f.cause ≠ 5 → t.pc = s.pc + 2 ∧ SameBut [.pc, .events] s t)

/-- Which instruction raises which fatal, when, and with what info; every other instruction raises none, and nothing is
refused (R200, R209). -/
def Obligations.InstructionFatalsAreExactlyTheseCauses : Prop :=
  ∀ (i : Instr) (s : State),
    (∀ r, exec i s ≠ .refused r) ∧
      ∀ f, exec i s = .fault f ↔
        match i with
        | .sys nnn => f = .unimplementedSys nnn (s.pc - 2)
        | .ret => s.sp.val = 0 ∧ f = .stackUnderflow (s.pc - 2)
        | .call _ => s.sp.val = 16 ∧ f = .stackOverflow (s.pc - 2)
        | .drwVxVyN _ _ n => 1 ≤ n.toNat ∧ 4095 < s.i.toNat + n.toNat - 1 ∧
            f = .dataAddressOutOfBounds (s.i.toNat + n.toNat - 1) (s.pc - 2)
        | .ldBVx _ => 4095 < s.i.toNat + 2 ∧ f = .dataAddressOutOfBounds (s.i.toNat + 2) (s.pc - 2)
        | .ldMemIVx x => 4095 < s.i.toNat + x.val ∧ f = .dataAddressOutOfBounds (s.i.toNat + x.val) (s.pc - 2)
        | .ldVxMemI x => 4095 < s.i.toNat + x.val ∧ f = .dataAddressOutOfBounds (s.i.toNat + x.val) (s.pc - 2)
        | .skpVx x => 15 < (s.getV x).toNat ∧ f = .keyIndexOutOfRange (s.getV x) (s.pc - 2)
        | .sknpVx x => 15 < (s.getV x).toNat ∧ f = .keyIndexOutOfRange (s.getV x) (s.pc - 2)
        | _ => False

/-- Render (R106): exactly one after every step that is not fatal, none after a fatal one. -/
def Obligations.RenderFollowsEverySuccessfulStep : Prop :=
  ∀ s : State, (∀ t, s.perform .step = .ok t → t.events = [.render]) ∧
    ∀ f t, s.perform .step = .fatal f t → .render ∉ t.events

/-- The machine's invariant is kept by every transition, whatever the next operation: canonical memory, PC at most 0x10FE,
stack slots at most 4096 (R25). -/
def Obligations.EveryTransitionKeepsTheInvariant : Prop :=
  ∀ s t : State, s.Inv → step s = .next t → t.Inv

/-- The invariant holds right after reset, for every font. -/
def Obligations.ResetMeetsTheInvariant : Prop :=
  ∀ font, (State.resetWith font).Inv

/-- Power-on (R232): the state the machine starts in is the reset state of its font, and a reset from any state gives the reset
state again, whatever that state was. It holds for every font. -/
def Obligations.PowerOnAndResetGiveTheResetState : Prop :=
  IsResetState State.reset.fontRom [] State.reset ∧ (∀ font, IsResetState font [] (State.resetWith font)) ∧
    ∀ s : State, ∃ t, s.perform .reset = .ok t ∧ IsResetState s.fontRom [] t

/-- `reset` (R230): it cannot fail, emits nothing, and the next step fetches 0x0000 and ends with Fatal cause 8. -/
def Obligations.ResetClearsAllStateAndTheProgram : Prop :=
  ∀ s : State, ∃ t u, s.perform .reset = .ok t ∧ IsResetState s.fontRom [] t ∧ t.events = [] ∧
    t.perform .step = .fatal (.unimplementedSys 0 0x200) u

/-- `loadProgram` (R231): the reset state with the image at 512, or Fatal cause 5 and the reset state. -/
def Obligations.LoadProgramResetsThenCopiesTheImage : Prop :=
  ∀ (s : State) (bytes : List Byte),
    (bytes.length ≤ 3584 →
      ∃ t, s.perform (.loadProgram bytes) = .ok t ∧ IsResetState s.fontRom bytes t ∧ t.events = []) ∧
      (3584 < bytes.length →
        ∃ t, s.perform (.loadProgram bytes) = .fatal (.loadOverflow bytes.length) t ∧ IsResetState s.fontRom [] t)

/-- `tick` (R215). -/
def Obligations.TickDecrementsBothTimersAndReports : Prop :=
  ∀ s : State, ∃ t, s.perform .tick = .ok t ∧ t.dt.toNat = s.dt.toNat - 1 ∧ t.st.toNat = s.st.toNat - 1 ∧
    (t.sound = true ↔ t.st ≠ 0) ∧ t.events = [.sound t.sound] ∧ SameBut [.dt, .st, .sound, .events] s t

/-- The sound report law (R216): active iff ST was at least 2 before the tick; a step makes no report. -/
def Obligations.SoundReportIsActiveIffTwoOrMore : Prop :=
  ∀ s t : State, (s.perform .tick = .ok t → (t.sound = true ↔ 2 ≤ s.st.toNat) ∧ t.events = [.sound t.sound]) ∧
    (s.perform .step = .ok t → t.sound = s.sound ∧ ∀ b, .sound b ∉ t.events)

/-- Any number of ticks: both timers count down and are clamped at zero (R28, R29). -/
def Obligations.TimersCountDownAndStayAtZero : Prop :=
  ∀ (k : Nat) (s : State),
    (State.tick^[k] s).dt.toNat = s.dt.toNat - k ∧ (State.tick^[k] s).st.toNat = s.st.toNat - k

/-- `keyWrite` (R109). -/
def Obligations.KeyWriteSetsOneLatch : Prop :=
  ∀ (s : State) (k : Fin 16) (b : Bool), ∃ t, s.perform (.keyWrite k b) = .ok t ∧
    (∀ j, t.pressed j = if j = k then b else s.pressed j) ∧ t.events = [] ∧ SameBut [.key, .events] s t

/-- Who may write what (R37). -/
def Obligations.OperationsWriteOnlyTheirState : Prop :=
  ∀ (s t : State) (op : HostOp), s.perform op = .ok t →
    match op with
    | .step => SameBut [.v, .i, .pc, .sp, .stack, .dt, .st, .disp, .mem, .draws, .events] s t
    | .tick => SameBut [.dt, .st, .sound, .events] s t
    | .keyWrite k _ => (∀ j, j ≠ k → t.pressed j = s.pressed j) ∧ SameBut [.key, .events] s t
    | .reset => t.fontRom = s.fontRom ∧ t.draws = s.draws ∧ t.schedule = s.schedule
    | .loadProgram _ => t.fontRom = s.fontRom ∧ t.draws = s.draws ∧ t.schedule = s.schedule

/-- A step that waits for a key (R107): complete and successful, with no net effect but the Render. -/
def Obligations.WaitingStepOnlyRenders : Prop :=
  ∀ (s : State) (x : Reg), s.fetches (.ldVxK x) → (∀ k, s.pressed k = false) →
    ∃ t, s.perform .step = .ok t ∧ t.events = [.render] ∧ SameBut [.events] s t

/-- The self-jump (R112): an endless run of steps without a state change but the Render. -/
def Obligations.SelfJumpRunsForever : Prop :=
  ∀ (s : State) (nnn : Addr12), s.schedule = [] → s.fetches (.jp nnn) → s.pc.toNat = nnn.toNat →
    ∀ k, SafeFor k s ∧ ∀ t, Host.Core.run Sys2Proof.core k s = .next t → SameBut [.events] s t

/-! ### What instructions may write, over all instructions (10_state.md) -/

/-- Each piece of state has its own writers among the instructions (R23, R26 to R33, R37), and KEY, SOUND, the font, the
schedule and the events have none. -/
def Obligations.EachPieceOfStateHasItsOwnWriters : Prop :=
  ∀ (i : Instr) (s t : State), exec i s = .next t →
    (t.i ≠ s.i → (∃ nnn, i = .ldINnn nnn) ∨ (∃ x, i = .addIVx x) ∨ ∃ x, i = .ldFVx x) ∧
      (t.sp ≠ s.sp → i = .ret ∨ ∃ nnn, i = .call nnn) ∧ (t.stack ≠ s.stack → ∃ nnn, i = .call nnn) ∧
      (t.dt ≠ s.dt → ∃ x, i = .ldDtVx x) ∧ (t.st ≠ s.st → ∃ x, i = .ldStVx x) ∧
      (t.disp ≠ s.disp → i = .cls ∨ ∃ x y n, i = .drwVxVyN x y n) ∧
      ((∃ a, t.readByte a ≠ s.readByte a) → ∃ x, i = .ldBVx x ∨ i = .ldMemIVx x) ∧
      (t.draws ≠ s.draws → ∃ x kk, i = .rndVxKk x kk) ∧
      SameBut [.v, .i, .pc, .sp, .stack, .dt, .st, .disp, .mem, .draws] s t

/-- VF (R21, R241): the six flag writers leave 0 or 1 in it, and any other instruction changes it only as a destination that
the instruction names (VF is x, or the register block reaches V15). -/
def Obligations.FlagRegisterIsWrittenBySixInstructionsOrAsData : Prop :=
  ∀ (i : Instr) (s t : State), exec i s = .next t →
    match i with
    | .addVxVy _ _ | .subVxVy _ _ | .shrVxVy _ _ | .subnVxVy _ _ | .shlVxVy _ _ | .drwVxVyN _ _ _ =>
        t.getV vf = 0 ∨ t.getV vf = 1
    | .ldVxKk x _ | .addVxKk x _ | .ldVxVy x _ | .orVxVy x _ | .andVxVy x _ | .xorVxVy x _ | .rndVxKk x _
    | .ldVxDt x | .ldVxK x | .ldVxMemI x => x ≠ vf → t.getV vf = s.getV vf
    | _ => t.v = s.v

/-- PC (R24, R103): an instruction that is no jump, call, return, skip or key wait leaves the fetch advance as it is; a skip
adds 2 or nothing; a key wait takes 2 back or nothing. -/
def Obligations.OnlyControlTransferMovesThePc : Prop :=
  ∀ (i : Instr) (s t : State), exec i s = .next t →
    match i with
    | .jp _ | .call _ | .ret | .jpV0Nnn _ => True
    | .seVxKk _ _ | .sneVxKk _ _ | .seVxVy _ _ | .sneVxVy _ _ | .skpVx _ | .sknpVx _ => t.pc = s.pc ∨ t.pc = s.pc + 2
    | .ldVxK _ => t.pc = s.pc ∨ t.pc = s.pc - 2
    | _ => t.pc = s.pc

/-- ST and SOUND cannot be observed by a program (R29, R33, R36): two states that differ only there run every instruction to
states that differ only there, and end fatally alike. -/
def Obligations.SoundTimerIsUnobservable : Prop :=
  ∀ (i : Instr) (s : State) (b : Byte) (c : Bool),
    (∀ t, exec i s = .next t →
      ∃ t', exec i { s with st := b, sound := c } = .next t' ∧ SameBut [.st, .sound] t t') ∧
      ∀ f, exec i s = .fault f → exec i { s with st := b, sound := c } = .fault f

/-- A stack slot at or above SP cannot be read before a call overwrites it (R26): two states that differ only in such slots
run every instruction to states that again differ only in such slots, and end fatally alike. -/
def Obligations.DeadStackSlotsAreUnobservable : Prop :=
  ∀ (i : Instr) (s s' : State), SameBut [.stack] s s' → s'.mem = s.mem →
    (∀ j : Fin 16, j.val < s.sp.val → s'.stack[j] = s.stack[j]) →
    (∀ t, exec i s = .next t →
      ∃ t', exec i s' = .next t' ∧ SameBut [.stack] t t' ∧ ∀ j : Fin 16, j.val < t.sp.val → t'.stack[j] = t.stack[j]) ∧
      ∀ f, exec i s = .fault f → exec i s' = .fault f

/-! ### Control transfer (41_control_transfer.md) -/

/-- SYS (R121): every word of its space decodes to it, and it always ends with Fatal cause 8, PC advanced, nothing else
changed, no Render. -/
def Obligations.SystemCallAlwaysRaisesCauseEight : Prop :=
  (∀ op : Word, op &&& 0xF000 = 0x0000 → op ≠ 0x00E0 → op ≠ 0x00EE → decode op = some (.sys (fieldsOf op).nnn)) ∧
    (∀ nnn s, exec (.sys nnn) s = .fault (.unimplementedSys nnn (s.pc - 2))) ∧
    ∀ nnn s, s.fetches (.sys nnn) → ∃ t, s.perform .step = .fatal (.unimplementedSys nnn s.pc) t ∧
      t.pc = s.pc + 2 ∧ t.events = [] ∧ SameBut [.pc, .events] s t

/-- JP nnn (R123) and JP V0,nnn (R129). -/
def Obligations.JumpsLoadThePcAbsolutely : Prop :=
  DecodesAs 0xF000 0x1000 (fun f => .jp f.nnn) ∧ DecodesAs 0xF000 0xB000 (fun f => .jpV0Nnn f.nnn) ∧
    ∀ (nnn : Addr12) (s : State),
      (∃ t, exec (.jp nnn) s = .next t ∧ t.pc.toNat = nnn.toNat ∧ SameBut [.pc] s t) ∧
        ∃ t, exec (.jpV0Nnn nnn) s = .next t ∧ t.pc.toNat = nnn.toNat + (s.getV 0).toNat ∧ SameBut [.pc] s t

/-- CALL nnn (R124): the slot STACK[SP] gets the advanced PC and no other slot changes; Fatal cause 3 when 16 addresses are
held. -/
def Obligations.CallPushesTheReturnAddress : Prop :=
  DecodesAs 0xF000 0x2000 (fun f => .call f.nnn) ∧
    ∀ (nnn : Addr12) (s : State),
      (s.sp.val < 16 → ∃ t, exec (.call nnn) s = .next t ∧
        (∀ j : Fin 16, t.stack[j] = if j.val = s.sp.val then s.pc else s.stack[j]) ∧
        t.sp.val = s.sp.val + 1 ∧ t.pc.toNat = nnn.toNat ∧ SameBut [.pc, .sp, .stack] s t) ∧
        (s.sp.val = 16 → exec (.call nnn) s = .fault (.stackOverflow (s.pc - 2)))

/-- RET (R122): PC is the word in the slot SP - 1, as it is; the slots keep their values; Fatal cause 4 when none is held. -/
def Obligations.ReturnPopsIntoThePc : Prop :=
  DecodesAs 0xFFFF 0x00EE (fun _ => .ret) ∧
    ∀ s : State,
      (∀ j : Fin 16, s.sp.val = j.val + 1 →
        ∃ t, exec .ret s = .next t ∧ t.pc = s.stack[j] ∧ t.sp.val = j.val ∧ SameBut [.pc, .sp] s t) ∧
        (s.sp.val = 0 → exec .ret s = .fault (.stackUnderflow (s.pc - 2)))

/-- A return reached with the stack as a call left it gives back the caller's PC and stack depth (95_test_vectors.md E3). -/
def Obligations.ReturnUndoesCall : Prop :=
  ∀ (nnn : Addr12) (s t u : State), exec (.call nnn) s = .next t → u.sp = t.sp → u.stack = t.stack →
    ∃ w, exec .ret u = .next w ∧ w.pc = s.pc ∧ w.sp = s.sp ∧ SameBut [.pc, .sp] u w

/-- SE and SNE in both forms (R125 to R128). -/
def Obligations.RegisterSkipsTestTheirCondition : Prop :=
  DecodesAs 0xF000 0x3000 (fun f => .seVxKk f.x f.kk) ∧ DecodesAs 0xF000 0x4000 (fun f => .sneVxKk f.x f.kk) ∧
    DecodesAs 0xF00F 0x5000 (fun f => .seVxVy f.x f.y) ∧ DecodesAs 0xF00F 0x9000 (fun f => .sneVxVy f.x f.y) ∧
    (∀ x kk s, Skips (.seVxKk x kk) ((s.getV x).toNat = kk.toNat) s) ∧
    (∀ x kk s, Skips (.sneVxKk x kk) ((s.getV x).toNat ≠ kk.toNat) s) ∧
    (∀ x y s, Skips (.seVxVy x y) ((s.getV x).toNat = (s.getV y).toNat) s) ∧
    ∀ x y s, Skips (.sneVxVy x y) ((s.getV x).toNat ≠ (s.getV y).toNat) s

/-- The skip law (R131), for whole steps of the six skips (the key skips with a legal index): 4 in all when the condition
holds and 2 otherwise, whatever the skipped bytes are; nothing else changes but the Render; a skip that leaves PC above 4094
makes the next step fatal. -/
def Obligations.SkipsAdvanceByFourOrTwo : Prop :=
  ∀ (s : State) (i : Instr) (c : Prop), s.fetches i → skipCondition s i = some c →
    (∀ x, i = .skpVx x ∨ i = .sknpVx x → (s.getV x).toNat ≤ 15) →
    ∃ t, s.perform .step = .ok t ∧ (c → t.pc.toNat = s.pc.toNat + 4) ∧ (¬ c → t.pc.toNat = s.pc.toNat + 2) ∧
      SameBut [.pc, .events] s t ∧
      (4094 < t.pc.toNat → ∃ u, t.perform .step = .fatal (.outOfBoundsFetch t.pc) u)

/-! ### Register load, arithmetic, logic, shifts, random (42_load_alu.md) -/

/-- LD, ADD Vx,kk, OR, AND, XOR (R141 to R146): the destination alone changes, no flag is written. -/
def Obligations.LoadsAndLogicWriteTheDestinationOnly : Prop :=
  DecodesAs 0xF000 0x6000 (fun f => .ldVxKk f.x f.kk) ∧ DecodesAs 0xF000 0x7000 (fun f => .addVxKk f.x f.kk) ∧
    DecodesAs 0xF00F 0x8000 (fun f => .ldVxVy f.x f.y) ∧ DecodesAs 0xF00F 0x8001 (fun f => .orVxVy f.x f.y) ∧
    DecodesAs 0xF00F 0x8002 (fun f => .andVxVy f.x f.y) ∧ DecodesAs 0xF00F 0x8003 (fun f => .xorVxVy f.x f.y) ∧
    (∀ x kk s, WritesRegister (.ldVxKk x kk) x kk.toNat s) ∧
    (∀ x kk s, WritesRegister (.addVxKk x kk) x (((s.getV x).toNat + kk.toNat) % 256) s) ∧
    ∀ x y s, WritesRegister (.ldVxVy x y) x (s.getV y).toNat s ∧
      WritesRegister (.orVxVy x y) x ((s.getV x).toNat ||| (s.getV y).toNat) s ∧
      WritesRegister (.andVxVy x y) x ((s.getV x).toNat &&& (s.getV y).toNat) s ∧
      WritesRegister (.xorVxVy x y) x ((s.getV x).toNat ^^^ (s.getV y).toNat) s

/-- ADD, SUB, SUBN (R147, R148, R150): the result modulo 256 and then VF, also when x or y is VF. -/
def Obligations.AddAndSubtractWriteResultThenFlag : Prop :=
  DecodesAs 0xF00F 0x8004 (fun f => .addVxVy f.x f.y) ∧ DecodesAs 0xF00F 0x8005 (fun f => .subVxVy f.x f.y) ∧
    DecodesAs 0xF00F 0x8007 (fun f => .subnVxVy f.x f.y) ∧
    ∀ x y s,
      WritesRegisterAndFlag (.addVxVy x y) x (((s.getV x).toNat + (s.getV y).toNat) % 256)
          (if 255 < (s.getV x).toNat + (s.getV y).toNat then 1 else 0) s ∧
        WritesRegisterAndFlag (.subVxVy x y) x ((256 + (s.getV x).toNat - (s.getV y).toNat) % 256)
          (if (s.getV y).toNat < (s.getV x).toNat then 1 else 0) s ∧
        WritesRegisterAndFlag (.subnVxVy x y) x ((256 + (s.getV y).toNat - (s.getV x).toNat) % 256)
          (if (s.getV x).toNat < (s.getV y).toNat then 1 else 0) s

/-- SHR and SHL (R149, R151): Vx is shifted in place whatever y is, and VF is the bit shifted out of the old Vx. -/
def Obligations.ShiftsWorkInPlaceWithPreShiftFlag : Prop :=
  DecodesAs 0xF00F 0x8006 (fun f => .shrVxVy f.x f.y) ∧ DecodesAs 0xF00F 0x800E (fun f => .shlVxVy f.x f.y) ∧
    ∀ x y s,
      WritesRegisterAndFlag (.shrVxVy x y) x ((s.getV x).toNat / 2) ((s.getV x).toNat % 2) s ∧
        WritesRegisterAndFlag (.shlVxVy x y) x ((s.getV x).toNat * 2 % 256) ((s.getV x).toNat / 128) s

/-- The same register as source and destination (R153). -/
def Obligations.SameRegisterOperandsCollapse : Prop :=
  ∀ (x : Reg) (s : State),
    (∀ t, exec (.ldVxVy x x) s = .next t ∨ exec (.orVxVy x x) s = .next t ∨ exec (.andVxVy x x) s = .next t →
      t.v = s.v) ∧
      (∀ t, exec (.xorVxVy x x) s = .next t → t.getV x = 0) ∧
      (∀ t, exec (.addVxVy x x) s = .next t → (x ≠ vf → (t.getV x).toNat = 2 * (s.getV x).toNat % 256) ∧
        (t.getV vf = 1 ↔ 128 ≤ (s.getV x).toNat)) ∧
      (∀ t, exec (.subVxVy x x) s = .next t ∨ exec (.subnVxVy x x) s = .next t → t.getV x = 0 ∧ t.getV vf = 0)

/-- RND (R155): the drawn byte masked with kk; the next draw is a fresh one. `Config.rndIn` has no body, so this holds for
every byte that RND_IN may carry (log 2). -/
def Obligations.RandomMasksAFreshDraw : Prop :=
  DecodesAs 0xF000 0xC000 (fun f => .rndVxKk f.x f.kk) ∧
    ∀ x kk s, ∃ t, exec (.rndVxKk x kk) s = .next t ∧ t.getV x = Config.rndIn s.draws &&& kk ∧
      t.getV x &&& ~~~kk = 0 ∧ (∀ r, r ≠ x → t.getV r = s.getV r) ∧ t.draws = s.draws + 1 ∧ SameBut [.v, .draws] s t

/-! ### Index register and memory transfers (43_index_memory.md) -/

/-- LD I, ADD I, LD F (R166 to R168): I alone changes, no flag is written. -/
def Obligations.IndexInstructionsWriteOnlyTheIndex : Prop :=
  DecodesAs 0xF000 0xA000 (fun f => .ldINnn f.nnn) ∧ DecodesAs 0xF0FF 0xF01E (fun f => .addIVx f.x) ∧
    DecodesAs 0xF0FF 0xF029 (fun f => .ldFVx f.x) ∧
    (∀ nnn s, WritesIndex (.ldINnn nnn) nnn.toNat s) ∧
    ∀ x s, WritesIndex (.addIVx x) ((s.i.toNat + (s.getV x).toNat) % 65536) s ∧
      WritesIndex (.ldFVx x) ((s.getV x).toNat * 5) s

/-- LD B (R169): three digits at I, I + 1, I + 2, every other byte as before; Fatal cause 6 when I is above 4093. -/
def Obligations.BcdStoresThreeDigits : Prop :=
  DecodesAs 0xF0FF 0xF033 (fun f => .ldBVx f.x) ∧
    ∀ (x : Reg) (s : State),
      (Memory.wf s.fontRom s.mem → s.ea 2 ≤ 4095 → ∃ t, exec (.ldBVx x) s = .next t ∧
        (t.readByte (s.ea 0)).toNat = (s.getV x).toNat / 100 ∧
        (t.readByte (s.ea 1)).toNat = (s.getV x).toNat / 10 % 10 ∧
        (t.readByte (s.ea 2)).toNat = (s.getV x).toNat % 10 ∧
        (∀ a, a < s.ea 0 ∨ s.ea 2 < a → t.readByte a = s.readByte a) ∧ SameBut [.mem] s t) ∧
        (4095 < s.ea 2 → exec (.ldBVx x) s = .fault (.dataAddressOutOfBounds (s.ea 2) (s.pc - 2)))

/-- LD [I],Vx (R170): V[j] at I + j for j = 0 .. x, every other byte as before, I unchanged; Fatal cause 6 when I + x is above
4095. -/
def Obligations.StoreRegistersCopiesTheBlock : Prop :=
  DecodesAs 0xF0FF 0xF055 (fun f => .ldMemIVx f.x) ∧
    ∀ (x : Reg) (s : State),
      (Memory.wf s.fontRom s.mem → s.ea x.val ≤ 4095 → ∃ t, exec (.ldMemIVx x) s = .next t ∧
        (∀ j : Reg, j ≤ x → t.readByte (s.ea j.val) = s.getV j) ∧
        (∀ a, a < s.ea 0 ∨ s.ea x.val < a → t.readByte a = s.readByte a) ∧ SameBut [.mem] s t) ∧
        (4095 < s.ea x.val → exec (.ldMemIVx x) s = .fault (.dataAddressOutOfBounds (s.ea x.val) (s.pc - 2)))

/-- LD Vx,[I] (R171): V[j] from I + j for j = 0 .. x, the registers above x, I and memory unchanged; Fatal cause 6 when I + x
is above 4095. -/
def Obligations.LoadRegistersCopiesTheBlock : Prop :=
  DecodesAs 0xF0FF 0xF065 (fun f => .ldVxMemI f.x) ∧
    ∀ (x : Reg) (s : State),
      (s.ea x.val ≤ 4095 → ∃ t, exec (.ldVxMemI x) s = .next t ∧
        (∀ j : Reg, t.getV j = if j ≤ x then s.readByte (s.ea j.val) else s.getV j) ∧ SameBut [.v] s t) ∧
        (4095 < s.ea x.val → exec (.ldVxMemI x) s = .fault (.dataAddressOutOfBounds (s.ea x.val) (s.pc - 2)))

/-- Registers stored and then loaded from the same memory at the same I come back. -/
def Obligations.StoredRegistersLoadBack : Prop :=
  ∀ (x : Reg) (s t u : State), Memory.wf s.fontRom s.mem → exec (.ldMemIVx x) s = .next t →
    u.mem = t.mem → u.fontRom = t.fontRom → u.i = t.i →
    ∃ w, exec (.ldVxMemI x) u = .next w ∧ (∀ r, r ≤ x → w.getV r = s.getV r) ∧ ∀ r, x < r → w.getV r = u.getV r

/-- Instruction-fetch coherence (R66, R57): after a block store the fetch at a stored address sees the stored bytes, the
lower-numbered register as the high byte. -/
def Obligations.NextFetchSeesTheStoredBytes : Prop :=
  ∀ (x j k : Reg) (s t : State), Memory.wf s.fontRom s.mem → exec (.ldMemIVx x) s = .next t →
    k.val = j.val + 1 → k ≤ x → t.pc.toNat = s.ea j.val →
    t.fetchWord.toNat = (s.getV j).toNat * 256 + (s.getV k).toNat

/-! ### Display (44_display.md) -/

/-- CLS (R181). -/
def Obligations.ClearScreenZeroesTheDisplay : Prop :=
  DecodesAs 0xFFFF 0x00E0 (fun _ => .cls) ∧
    ∀ s : State, ∃ t, exec .cls s = .next t ∧ (∀ c, t.disp.cell c = false) ∧ SameBut [.disp] s t

/-- DRW (R183): a cell changes iff a 1 pixel of the sprite covers it; VF is 1 iff a set cell was covered; Fatal cause 6 when
the last row's address is above 4095. -/
def Obligations.DrawTogglesTheCoveredCells : Prop :=
  DecodesAs 0xF000 0xD000 (fun f => .drwVxVyN f.x f.y f.n) ∧
    ∀ (x y : Reg) (n : Nibble) (s : State),
      (n.toNat = 0 ∨ s.ea (n.toNat - 1) ≤ 4095 → ∃ t, exec (.drwVxVyN x y n) s = .next t ∧
        (∀ cx < 64, ∀ cy < 32,
          (SpriteCovers x y n s cx cy → t.disp.cell (cy * 64 + cx) = !s.disp.cell (cy * 64 + cx)) ∧
            (¬ SpriteCovers x y n s cx cy → t.disp.cell (cy * 64 + cx) = s.disp.cell (cy * 64 + cx))) ∧
        ((∃ cx < 64, ∃ cy < 32, SpriteCovers x y n s cx cy ∧ s.disp.cell (cy * 64 + cx) = true) → t.getV vf = 1) ∧
        ((∀ cx < 64, ∀ cy < 32, SpriteCovers x y n s cx cy → s.disp.cell (cy * 64 + cx) = false) → t.getV vf = 0) ∧
        (∀ r, r ≠ vf → t.getV r = s.getV r) ∧ SameBut [.v, .disp] s t) ∧
        (1 ≤ n.toNat → 4095 < s.ea (n.toNat - 1) →
          exec (.drwVxVyN x y n) s = .fault (.dataAddressOutOfBounds (s.ea (n.toNat - 1)) (s.pc - 2)))

/-- Drawing the same sprite twice at the same position restores the display (R184), and the second draw reports a collision
iff the sprite covers a cell that was clear before the first. R183's corner case (c) says of the second draw only that the
sprite has a 1 pixel: that holds where no covered cell was set at first, and R183's loop decides the rest (log 25). -/
def Obligations.DrawingTwiceRestoresTheDisplay : Prop :=
  ∀ (x y : Reg) (n : Nibble) (s t u : State), x ≠ vf → y ≠ vf →
    exec (.drwVxVyN x y n) s = .next t → exec (.drwVxVyN x y n) t = .next u →
    u.disp = s.disp ∧
      (u.getV vf = 1 ↔ ∃ cx < 64, ∃ cy < 32, SpriteCovers x y n s cx cy ∧ s.disp.cell (cy * 64 + cx) = false)

/-! ### Keypad and timers (45_keypad_timers.md) -/

/-- SKP and SKNP (R191, R192): the latch named by V[x]; Fatal cause 7 when V[x] is above 15. -/
def Obligations.KeySkipsTestTheNamedLatch : Prop :=
  DecodesAs 0xF0FF 0xE09E (fun f => .skpVx f.x) ∧ DecodesAs 0xF0FF 0xE0A1 (fun f => .sknpVx f.x) ∧
    ∀ (x : Reg) (s : State),
      (∀ k : Fin 16, k.val = (s.getV x).toNat →
        Skips (.skpVx x) (s.pressed k = true) s ∧ Skips (.sknpVx x) (s.pressed k = false) s) ∧
        (15 < (s.getV x).toNat →
          exec (.skpVx x) s = .fault (.keyIndexOutOfRange (s.getV x) (s.pc - 2)) ∧
            exec (.sknpVx x) s = .fault (.keyIndexOutOfRange (s.getV x) (s.pc - 2)))

/-- LD Vx,K (R193): the least pressed key, or PC back at the instruction's own address with nothing else changed. -/
def Obligations.KeyWaitTakesTheLeastPressedKey : Prop :=
  DecodesAs 0xF0FF 0xF00A (fun f => .ldVxK f.x) ∧
    ∀ (x : Reg) (s : State),
      (∀ k : Fin 16, s.pressed k = true → (∀ j, j < k → s.pressed j = false) →
        WritesRegister (.ldVxK x) x k.val s) ∧
        ((∀ k, s.pressed k = false) → ∃ t, exec (.ldVxK x) s = .next t ∧ t.pc = s.pc - 2 ∧ SameBut [.pc] s t)

/-- LD Vx,DT, LD DT,Vx, LD ST,Vx (R194 to R196): SOUND is not touched. -/
def Obligations.TimerTransfersCopyTheRegister : Prop :=
  DecodesAs 0xF0FF 0xF007 (fun f => .ldVxDt f.x) ∧ DecodesAs 0xF0FF 0xF015 (fun f => .ldDtVx f.x) ∧
    DecodesAs 0xF0FF 0xF018 (fun f => .ldStVx f.x) ∧
    ∀ (x : Reg) (s : State),
      WritesRegister (.ldVxDt x) x s.dt.toNat s ∧
        (∃ t, exec (.ldDtVx x) s = .next t ∧ t.dt = s.getV x ∧ SameBut [.dt] s t) ∧
        ∃ t, exec (.ldStVx x) s = .next t ∧ t.st = s.getV x ∧ SameBut [.st] s t

/-! ### Progress of waits, under premises on the host (40_engine_cycle.md R111) -/

/-- Under weak fairness of the tick agent a timer that no step loads runs out and stays at 0 (R111, R215): on every endless run,
DT where no LD DT,Vx is executed and ST where no LD ST,Vx is. That an endless run schedules its operations one by one is the
model's choice (log 3, log 22). -/
def Obligations.FairTicksRunTheTimersOut : Prop :=
  ∀ (ops : Nat → HostOp) (σ : Nat → State), EndlessRun ops σ → TickFair ops →
    (NeverExecutes (fun i => ∃ x, i = .ldDtVx x) ops σ → ∃ n, ∀ m, n ≤ m → (σ m).dt = 0) ∧
      (NeverExecutes (fun i => ∃ x, i = .ldStVx x) ops σ → ∃ n, ∀ m, n ≤ m → (σ m).st = 0)

/-- A key wait ends once a key press is seen (R111, R193): on every endless run that starts at LD Vx,K and keeps the program,
PC stays there up to a step that finds a key pressed, which leaves V[x] that key and PC past the instruction (log 3, log 22). -/
def Obligations.KeyWaitEndsWhenAPressIsSeen : Prop :=
  ∀ (ops : Nat → HostOp) (σ : Nat → State) (x : Reg), EndlessRun ops σ → KeepsProgram ops → KeyPressSeen ops →
    (σ 0).fetches (.ldVxK x) →
    ∃ n, ops n = .step ∧ (∀ j, j ≤ n → (σ j).pc = (σ 0).pc) ∧ (σ (n + 1)).pc = (σ 0).pc + 2 ∧
      ∃ k, (σ n).pressed k = true ∧ ((σ (n + 1)).getV x).toNat = k.val

/-- The engine gives no such guarantee (R111): on an endless run that keeps the program, with no tick DT and ST keep their values
where no step loads them; with no key pressed and no key write of 1 a run that starts at LD Vx,K never leaves it and never writes
a register (log 3, log 22). -/
def Obligations.WaitsDoNotEndWithoutTheHost : Prop :=
  ∀ (ops : Nat → HostOp) (σ : Nat → State), EndlessRun ops σ → KeepsProgram ops →
    ((∀ n, ops n ≠ .tick) → NeverExecutes (fun i => ∃ x, i = .ldDtVx x ∨ i = .ldStVx x) ops σ →
      ∀ n, (σ n).dt = (σ 0).dt ∧ (σ n).st = (σ 0).st) ∧
      ∀ x, (σ 0).fetches (.ldVxK x) → (∀ k, (σ 0).pressed k = false) → (∀ n k, ops n ≠ .keyWrite k true) →
        ∀ n, (σ n).pc = (σ 0).pc ∧ (σ n).v = (σ 0).v
end

