-- ==== Sys2Proof/Laws/Encoding.lean ====
section
/-! SUPPORT. What masking and field extraction (30_encoding.md R81, R84) give on a word written out field by field. -/

namespace Sys2Proof

/-- Format NNN under the mask 0xF000. -/
theorem and_major_nnn (h : BitVec 4) (nnn : Addr12) : (h ++ nnn : Word) &&& 0xF000 = (h ++ 0#12 : Word) := by
  rw [show (0xF000 : Word) = 0xF#4 ++ 0#12 by decide, BitVec.and_append, show h &&& 0xF#4 = h from BitVec.and_allOnes,
    BitVec.and_zero]

/-- Format XKK under the mask 0xF000. -/
theorem and_major_xkk (h x : BitVec 4) (kk : Byte) : (h ++ x ++ kk : Word) &&& 0xF000 = (h ++ 0#4 ++ 0#8 : Word) := by
  rw [show (0xF000 : Word) = 0xF#4 ++ 0#4 ++ 0#8 by decide, BitVec.and_append, BitVec.and_append,
    show h &&& 0xF#4 = h from BitVec.and_allOnes, BitVec.and_zero, BitVec.and_zero]

/-- Format XYN under the mask 0xF000. -/
theorem and_major_xyn (h x y n : BitVec 4) : (h ++ x ++ y ++ n : Word) &&& 0xF000 = (h ++ 0#4 ++ 0#4 ++ 0#4 : Word) := by
  rw [show (0xF000 : Word) = 0xF#4 ++ 0#4 ++ 0#4 ++ 0#4 by decide, BitVec.and_append, BitVec.and_append,
    BitVec.and_append, show h &&& 0xF#4 = h from BitVec.and_allOnes, BitVec.and_zero, BitVec.and_zero, BitVec.and_zero]

/-- Format XY under the mask 0xF00F. -/
theorem and_minor_nibble (h x y m : BitVec 4) : (h ++ x ++ y ++ m : Word) &&& 0xF00F = (h ++ 0#4 ++ 0#4 ++ m : Word) := by
  rw [show (0xF00F : Word) = 0xF#4 ++ 0#4 ++ 0#4 ++ 0xF#4 by decide, BitVec.and_append, BitVec.and_append,
    BitVec.and_append, show h &&& 0xF#4 = h from BitVec.and_allOnes, show m &&& 0xF#4 = m from BitVec.and_allOnes,
    BitVec.and_zero, BitVec.and_zero]

/-- Format X under the mask 0xF0FF. -/
theorem and_minor_byte (h x : BitVec 4) (m : Byte) : (h ++ x ++ m : Word) &&& 0xF0FF = (h ++ 0#4 ++ m : Word) := by
  rw [show (0xF0FF : Word) = 0xF#4 ++ 0#4 ++ 0xFF#8 by decide, BitVec.and_append, BitVec.and_append,
    show h &&& 0xF#4 = h from BitVec.and_allOnes, show m &&& 0xFF#8 = m from BitVec.and_allOnes, BitVec.and_zero]

/-- The low part of a concatenation. -/
theorem extract_low {a b : Nat} (h : BitVec a) (l : BitVec b) : (h ++ l).extractLsb' 0 b = l := by
  apply BitVec.eq_of_getLsbD_eq
  intro j hj
  simp [BitVec.getLsbD_append, hj]

/-- A range of the high part of a concatenation. -/
theorem extract_high {a b : Nat} (h : BitVec a) (l : BitVec b) (start len : Nat) :
    (h ++ l).extractLsb' (b + start) len = h.extractLsb' start len := by
  apply BitVec.eq_of_getLsbD_eq
  intro j hj
  simp [BitVec.getLsbD_append, Nat.add_assoc]

/-- The operand field of format NNN. -/
theorem fieldsOf_nnn (h : BitVec 4) (nnn : Addr12) : (fieldsOf (h ++ nnn)).nnn = nnn :=
  extract_low h nnn

/-- The operand fields of format XKK, and of format X. -/
theorem fieldsOf_xkk (h : BitVec 4) (x : Reg) (kk : Byte) :
    (fieldsOf (h ++ BitVec.ofFin (w := 4) x ++ kk)).x = x ∧ (fieldsOf (h ++ BitVec.ofFin (w := 4) x ++ kk)).kk = kk :=
  ⟨congrArg BitVec.toFin ((extract_high (h ++ BitVec.ofFin (w := 4) x) kk 0 4).trans (extract_low h _)),
    extract_low (h ++ BitVec.ofFin (w := 4) x) kk⟩

/-- The operand fields of format XYN, and of format XY. -/
theorem fieldsOf_xyn (h : BitVec 4) (x y : Reg) (n : Nibble) :
    (fieldsOf (h ++ BitVec.ofFin (w := 4) x ++ BitVec.ofFin (w := 4) y ++ n)).x = x ∧
      (fieldsOf (h ++ BitVec.ofFin (w := 4) x ++ BitVec.ofFin (w := 4) y ++ n)).y = y ∧
      (fieldsOf (h ++ BitVec.ofFin (w := 4) x ++ BitVec.ofFin (w := 4) y ++ n)).n = n :=
  ⟨congrArg BitVec.toFin ((extract_high (h ++ BitVec.ofFin (w := 4) x ++ BitVec.ofFin (w := 4) y) n 4 4).trans
      ((extract_high (h ++ BitVec.ofFin (w := 4) x) (BitVec.ofFin (w := 4) y) 0 4).trans (extract_low h _))),
    congrArg BitVec.toFin ((extract_high (h ++ BitVec.ofFin (w := 4) x ++ BitVec.ofFin (w := 4) y) n 0 4).trans
      (extract_low (h ++ BitVec.ofFin (w := 4) x) _)),
    extract_low (h ++ BitVec.ofFin (w := 4) x ++ BitVec.ofFin (w := 4) y) n⟩

end Sys2Proof
end

