-- ==== Sys2Proof/Laws/State.lean ====
section
/-! SUPPORT. One lemma for each field under each update of State, true by rfl, so that no later proof unfolds a record
update. -/

namespace Sys2Proof.Machine

@[simp] theorem State.setV_v (s : State) (r : Reg) (b : Byte) : (s.setV r b).v = s.v.set r b := rfl
@[simp] theorem State.setV_i (s : State) (r : Reg) (b : Byte) : (s.setV r b).i = s.i := rfl
@[simp] theorem State.setV_pc (s : State) (r : Reg) (b : Byte) : (s.setV r b).pc = s.pc := rfl
@[simp] theorem State.setV_sp (s : State) (r : Reg) (b : Byte) : (s.setV r b).sp = s.sp := rfl
@[simp] theorem State.setV_stack (s : State) (r : Reg) (b : Byte) : (s.setV r b).stack = s.stack := rfl
@[simp] theorem State.setV_dt (s : State) (r : Reg) (b : Byte) : (s.setV r b).dt = s.dt := rfl
@[simp] theorem State.setV_st (s : State) (r : Reg) (b : Byte) : (s.setV r b).st = s.st := rfl
@[simp] theorem State.setV_disp (s : State) (r : Reg) (b : Byte) : (s.setV r b).disp = s.disp := rfl
@[simp] theorem State.setV_key (s : State) (r : Reg) (b : Byte) : (s.setV r b).key = s.key := rfl
@[simp] theorem State.setV_sound (s : State) (r : Reg) (b : Byte) : (s.setV r b).sound = s.sound := rfl
@[simp] theorem State.setV_mem (s : State) (r : Reg) (b : Byte) : (s.setV r b).mem = s.mem := rfl
@[simp] theorem State.setV_fontRom (s : State) (r : Reg) (b : Byte) : (s.setV r b).fontRom = s.fontRom := rfl
@[simp] theorem State.setV_draws (s : State) (r : Reg) (b : Byte) : (s.setV r b).draws = s.draws := rfl
@[simp] theorem State.setV_schedule (s : State) (r : Reg) (b : Byte) : (s.setV r b).schedule = s.schedule := rfl
@[simp] theorem State.setV_events (s : State) (r : Reg) (b : Byte) : (s.setV r b).events = s.events := rfl

@[simp] theorem State.setI_v (s : State) (w : Word) : (s.setI w).v = s.v := rfl
@[simp] theorem State.setI_i (s : State) (w : Word) : (s.setI w).i = w := rfl
@[simp] theorem State.setI_pc (s : State) (w : Word) : (s.setI w).pc = s.pc := rfl
@[simp] theorem State.setI_sp (s : State) (w : Word) : (s.setI w).sp = s.sp := rfl
@[simp] theorem State.setI_stack (s : State) (w : Word) : (s.setI w).stack = s.stack := rfl
@[simp] theorem State.setI_dt (s : State) (w : Word) : (s.setI w).dt = s.dt := rfl
@[simp] theorem State.setI_st (s : State) (w : Word) : (s.setI w).st = s.st := rfl
@[simp] theorem State.setI_disp (s : State) (w : Word) : (s.setI w).disp = s.disp := rfl
@[simp] theorem State.setI_key (s : State) (w : Word) : (s.setI w).key = s.key := rfl
@[simp] theorem State.setI_sound (s : State) (w : Word) : (s.setI w).sound = s.sound := rfl
@[simp] theorem State.setI_mem (s : State) (w : Word) : (s.setI w).mem = s.mem := rfl
@[simp] theorem State.setI_fontRom (s : State) (w : Word) : (s.setI w).fontRom = s.fontRom := rfl
@[simp] theorem State.setI_draws (s : State) (w : Word) : (s.setI w).draws = s.draws := rfl
@[simp] theorem State.setI_schedule (s : State) (w : Word) : (s.setI w).schedule = s.schedule := rfl
@[simp] theorem State.setI_events (s : State) (w : Word) : (s.setI w).events = s.events := rfl

@[simp] theorem State.setPc_v (s : State) (w : Word) : (s.setPc w).v = s.v := rfl
@[simp] theorem State.setPc_i (s : State) (w : Word) : (s.setPc w).i = s.i := rfl
@[simp] theorem State.setPc_pc (s : State) (w : Word) : (s.setPc w).pc = w := rfl
@[simp] theorem State.setPc_sp (s : State) (w : Word) : (s.setPc w).sp = s.sp := rfl
@[simp] theorem State.setPc_stack (s : State) (w : Word) : (s.setPc w).stack = s.stack := rfl
@[simp] theorem State.setPc_dt (s : State) (w : Word) : (s.setPc w).dt = s.dt := rfl
@[simp] theorem State.setPc_st (s : State) (w : Word) : (s.setPc w).st = s.st := rfl
@[simp] theorem State.setPc_disp (s : State) (w : Word) : (s.setPc w).disp = s.disp := rfl
@[simp] theorem State.setPc_key (s : State) (w : Word) : (s.setPc w).key = s.key := rfl
@[simp] theorem State.setPc_sound (s : State) (w : Word) : (s.setPc w).sound = s.sound := rfl
@[simp] theorem State.setPc_mem (s : State) (w : Word) : (s.setPc w).mem = s.mem := rfl
@[simp] theorem State.setPc_fontRom (s : State) (w : Word) : (s.setPc w).fontRom = s.fontRom := rfl
@[simp] theorem State.setPc_draws (s : State) (w : Word) : (s.setPc w).draws = s.draws := rfl
@[simp] theorem State.setPc_schedule (s : State) (w : Word) : (s.setPc w).schedule = s.schedule := rfl
@[simp] theorem State.setPc_events (s : State) (w : Word) : (s.setPc w).events = s.events := rfl

@[simp] theorem State.setDt_v (s : State) (b : Byte) : (s.setDt b).v = s.v := rfl
@[simp] theorem State.setDt_i (s : State) (b : Byte) : (s.setDt b).i = s.i := rfl
@[simp] theorem State.setDt_pc (s : State) (b : Byte) : (s.setDt b).pc = s.pc := rfl
@[simp] theorem State.setDt_sp (s : State) (b : Byte) : (s.setDt b).sp = s.sp := rfl
@[simp] theorem State.setDt_stack (s : State) (b : Byte) : (s.setDt b).stack = s.stack := rfl
@[simp] theorem State.setDt_dt (s : State) (b : Byte) : (s.setDt b).dt = b := rfl
@[simp] theorem State.setDt_st (s : State) (b : Byte) : (s.setDt b).st = s.st := rfl
@[simp] theorem State.setDt_disp (s : State) (b : Byte) : (s.setDt b).disp = s.disp := rfl
@[simp] theorem State.setDt_key (s : State) (b : Byte) : (s.setDt b).key = s.key := rfl
@[simp] theorem State.setDt_sound (s : State) (b : Byte) : (s.setDt b).sound = s.sound := rfl
@[simp] theorem State.setDt_mem (s : State) (b : Byte) : (s.setDt b).mem = s.mem := rfl
@[simp] theorem State.setDt_fontRom (s : State) (b : Byte) : (s.setDt b).fontRom = s.fontRom := rfl
@[simp] theorem State.setDt_draws (s : State) (b : Byte) : (s.setDt b).draws = s.draws := rfl
@[simp] theorem State.setDt_schedule (s : State) (b : Byte) : (s.setDt b).schedule = s.schedule := rfl
@[simp] theorem State.setDt_events (s : State) (b : Byte) : (s.setDt b).events = s.events := rfl

@[simp] theorem State.setSt_v (s : State) (b : Byte) : (s.setSt b).v = s.v := rfl
@[simp] theorem State.setSt_i (s : State) (b : Byte) : (s.setSt b).i = s.i := rfl
@[simp] theorem State.setSt_pc (s : State) (b : Byte) : (s.setSt b).pc = s.pc := rfl
@[simp] theorem State.setSt_sp (s : State) (b : Byte) : (s.setSt b).sp = s.sp := rfl
@[simp] theorem State.setSt_stack (s : State) (b : Byte) : (s.setSt b).stack = s.stack := rfl
@[simp] theorem State.setSt_dt (s : State) (b : Byte) : (s.setSt b).dt = s.dt := rfl
@[simp] theorem State.setSt_st (s : State) (b : Byte) : (s.setSt b).st = b := rfl
@[simp] theorem State.setSt_disp (s : State) (b : Byte) : (s.setSt b).disp = s.disp := rfl
@[simp] theorem State.setSt_key (s : State) (b : Byte) : (s.setSt b).key = s.key := rfl
@[simp] theorem State.setSt_sound (s : State) (b : Byte) : (s.setSt b).sound = s.sound := rfl
@[simp] theorem State.setSt_mem (s : State) (b : Byte) : (s.setSt b).mem = s.mem := rfl
@[simp] theorem State.setSt_fontRom (s : State) (b : Byte) : (s.setSt b).fontRom = s.fontRom := rfl
@[simp] theorem State.setSt_draws (s : State) (b : Byte) : (s.setSt b).draws = s.draws := rfl
@[simp] theorem State.setSt_schedule (s : State) (b : Byte) : (s.setSt b).schedule = s.schedule := rfl
@[simp] theorem State.setSt_events (s : State) (b : Byte) : (s.setSt b).events = s.events := rfl

@[simp] theorem State.setDisp_v (s : State) (d : Display) : (s.setDisp d).v = s.v := rfl
@[simp] theorem State.setDisp_i (s : State) (d : Display) : (s.setDisp d).i = s.i := rfl
@[simp] theorem State.setDisp_pc (s : State) (d : Display) : (s.setDisp d).pc = s.pc := rfl
@[simp] theorem State.setDisp_sp (s : State) (d : Display) : (s.setDisp d).sp = s.sp := rfl
@[simp] theorem State.setDisp_stack (s : State) (d : Display) : (s.setDisp d).stack = s.stack := rfl
@[simp] theorem State.setDisp_dt (s : State) (d : Display) : (s.setDisp d).dt = s.dt := rfl
@[simp] theorem State.setDisp_st (s : State) (d : Display) : (s.setDisp d).st = s.st := rfl
@[simp] theorem State.setDisp_disp (s : State) (d : Display) : (s.setDisp d).disp = d := rfl
@[simp] theorem State.setDisp_key (s : State) (d : Display) : (s.setDisp d).key = s.key := rfl
@[simp] theorem State.setDisp_sound (s : State) (d : Display) : (s.setDisp d).sound = s.sound := rfl
@[simp] theorem State.setDisp_mem (s : State) (d : Display) : (s.setDisp d).mem = s.mem := rfl
@[simp] theorem State.setDisp_fontRom (s : State) (d : Display) : (s.setDisp d).fontRom = s.fontRom := rfl
@[simp] theorem State.setDisp_draws (s : State) (d : Display) : (s.setDisp d).draws = s.draws := rfl
@[simp] theorem State.setDisp_schedule (s : State) (d : Display) : (s.setDisp d).schedule = s.schedule := rfl
@[simp] theorem State.setDisp_events (s : State) (d : Display) : (s.setDisp d).events = s.events := rfl

@[simp] theorem State.setMem_v (s : State) (m : Memory) : (s.setMem m).v = s.v := rfl
@[simp] theorem State.setMem_i (s : State) (m : Memory) : (s.setMem m).i = s.i := rfl
@[simp] theorem State.setMem_pc (s : State) (m : Memory) : (s.setMem m).pc = s.pc := rfl
@[simp] theorem State.setMem_sp (s : State) (m : Memory) : (s.setMem m).sp = s.sp := rfl
@[simp] theorem State.setMem_stack (s : State) (m : Memory) : (s.setMem m).stack = s.stack := rfl
@[simp] theorem State.setMem_dt (s : State) (m : Memory) : (s.setMem m).dt = s.dt := rfl
@[simp] theorem State.setMem_st (s : State) (m : Memory) : (s.setMem m).st = s.st := rfl
@[simp] theorem State.setMem_disp (s : State) (m : Memory) : (s.setMem m).disp = s.disp := rfl
@[simp] theorem State.setMem_key (s : State) (m : Memory) : (s.setMem m).key = s.key := rfl
@[simp] theorem State.setMem_sound (s : State) (m : Memory) : (s.setMem m).sound = s.sound := rfl
@[simp] theorem State.setMem_mem (s : State) (m : Memory) : (s.setMem m).mem = m := rfl
@[simp] theorem State.setMem_fontRom (s : State) (m : Memory) : (s.setMem m).fontRom = s.fontRom := rfl
@[simp] theorem State.setMem_draws (s : State) (m : Memory) : (s.setMem m).draws = s.draws := rfl
@[simp] theorem State.setMem_schedule (s : State) (m : Memory) : (s.setMem m).schedule = s.schedule := rfl
@[simp] theorem State.setMem_events (s : State) (m : Memory) : (s.setMem m).events = s.events := rfl

@[simp] theorem State.emit_v (s : State) (es : List OutEvent) : (s.emit es).v = s.v := rfl
@[simp] theorem State.emit_i (s : State) (es : List OutEvent) : (s.emit es).i = s.i := rfl
@[simp] theorem State.emit_pc (s : State) (es : List OutEvent) : (s.emit es).pc = s.pc := rfl
@[simp] theorem State.emit_sp (s : State) (es : List OutEvent) : (s.emit es).sp = s.sp := rfl
@[simp] theorem State.emit_stack (s : State) (es : List OutEvent) : (s.emit es).stack = s.stack := rfl
@[simp] theorem State.emit_dt (s : State) (es : List OutEvent) : (s.emit es).dt = s.dt := rfl
@[simp] theorem State.emit_st (s : State) (es : List OutEvent) : (s.emit es).st = s.st := rfl
@[simp] theorem State.emit_disp (s : State) (es : List OutEvent) : (s.emit es).disp = s.disp := rfl
@[simp] theorem State.emit_key (s : State) (es : List OutEvent) : (s.emit es).key = s.key := rfl
@[simp] theorem State.emit_sound (s : State) (es : List OutEvent) : (s.emit es).sound = s.sound := rfl
@[simp] theorem State.emit_mem (s : State) (es : List OutEvent) : (s.emit es).mem = s.mem := rfl
@[simp] theorem State.emit_fontRom (s : State) (es : List OutEvent) : (s.emit es).fontRom = s.fontRom := rfl
@[simp] theorem State.emit_draws (s : State) (es : List OutEvent) : (s.emit es).draws = s.draws := rfl
@[simp] theorem State.emit_schedule (s : State) (es : List OutEvent) : (s.emit es).schedule = s.schedule := rfl
@[simp] theorem State.emit_events (s : State) (es : List OutEvent) : (s.emit es).events = es := rfl

@[simp] theorem State.advancePc_v (s : State) : s.advancePc.v = s.v := rfl
@[simp] theorem State.advancePc_i (s : State) : s.advancePc.i = s.i := rfl
@[simp] theorem State.advancePc_pc (s : State) : s.advancePc.pc = s.pc + 2 := rfl
@[simp] theorem State.advancePc_sp (s : State) : s.advancePc.sp = s.sp := rfl
@[simp] theorem State.advancePc_stack (s : State) : s.advancePc.stack = s.stack := rfl
@[simp] theorem State.advancePc_dt (s : State) : s.advancePc.dt = s.dt := rfl
@[simp] theorem State.advancePc_st (s : State) : s.advancePc.st = s.st := rfl
@[simp] theorem State.advancePc_disp (s : State) : s.advancePc.disp = s.disp := rfl
@[simp] theorem State.advancePc_key (s : State) : s.advancePc.key = s.key := rfl
@[simp] theorem State.advancePc_sound (s : State) : s.advancePc.sound = s.sound := rfl
@[simp] theorem State.advancePc_mem (s : State) : s.advancePc.mem = s.mem := rfl
@[simp] theorem State.advancePc_fontRom (s : State) : s.advancePc.fontRom = s.fontRom := rfl
@[simp] theorem State.advancePc_draws (s : State) : s.advancePc.draws = s.draws := rfl
@[simp] theorem State.advancePc_schedule (s : State) : s.advancePc.schedule = s.schedule := rfl
@[simp] theorem State.advancePc_events (s : State) : s.advancePc.events = s.events := rfl

@[simp] theorem State.rewindPc_v (s : State) : s.rewindPc.v = s.v := rfl
@[simp] theorem State.rewindPc_i (s : State) : s.rewindPc.i = s.i := rfl
@[simp] theorem State.rewindPc_pc (s : State) : s.rewindPc.pc = s.pc - 2 := rfl
@[simp] theorem State.rewindPc_sp (s : State) : s.rewindPc.sp = s.sp := rfl
@[simp] theorem State.rewindPc_stack (s : State) : s.rewindPc.stack = s.stack := rfl
@[simp] theorem State.rewindPc_dt (s : State) : s.rewindPc.dt = s.dt := rfl
@[simp] theorem State.rewindPc_st (s : State) : s.rewindPc.st = s.st := rfl
@[simp] theorem State.rewindPc_disp (s : State) : s.rewindPc.disp = s.disp := rfl
@[simp] theorem State.rewindPc_key (s : State) : s.rewindPc.key = s.key := rfl
@[simp] theorem State.rewindPc_sound (s : State) : s.rewindPc.sound = s.sound := rfl
@[simp] theorem State.rewindPc_mem (s : State) : s.rewindPc.mem = s.mem := rfl
@[simp] theorem State.rewindPc_fontRom (s : State) : s.rewindPc.fontRom = s.fontRom := rfl
@[simp] theorem State.rewindPc_draws (s : State) : s.rewindPc.draws = s.draws := rfl
@[simp] theorem State.rewindPc_schedule (s : State) : s.rewindPc.schedule = s.schedule := rfl
@[simp] theorem State.rewindPc_events (s : State) : s.rewindPc.events = s.events := rfl

@[simp] theorem State.storeBytes_v (s : State) (a : Nat) (bs : List Byte) : (s.storeBytes a bs).v = s.v := rfl
@[simp] theorem State.storeBytes_i (s : State) (a : Nat) (bs : List Byte) : (s.storeBytes a bs).i = s.i := rfl
@[simp] theorem State.storeBytes_pc (s : State) (a : Nat) (bs : List Byte) : (s.storeBytes a bs).pc = s.pc := rfl
@[simp] theorem State.storeBytes_sp (s : State) (a : Nat) (bs : List Byte) : (s.storeBytes a bs).sp = s.sp := rfl
@[simp] theorem State.storeBytes_stack (s : State) (a : Nat) (bs : List Byte) : (s.storeBytes a bs).stack = s.stack := rfl
@[simp] theorem State.storeBytes_dt (s : State) (a : Nat) (bs : List Byte) : (s.storeBytes a bs).dt = s.dt := rfl
@[simp] theorem State.storeBytes_st (s : State) (a : Nat) (bs : List Byte) : (s.storeBytes a bs).st = s.st := rfl
@[simp] theorem State.storeBytes_disp (s : State) (a : Nat) (bs : List Byte) : (s.storeBytes a bs).disp = s.disp := rfl
@[simp] theorem State.storeBytes_key (s : State) (a : Nat) (bs : List Byte) : (s.storeBytes a bs).key = s.key := rfl
@[simp] theorem State.storeBytes_sound (s : State) (a : Nat) (bs : List Byte) : (s.storeBytes a bs).sound = s.sound := rfl
@[simp] theorem State.storeBytes_mem (s : State) (a : Nat) (bs : List Byte) : (s.storeBytes a bs).mem = Memory.writeBytes s.fontRom s.mem a bs := rfl
@[simp] theorem State.storeBytes_fontRom (s : State) (a : Nat) (bs : List Byte) : (s.storeBytes a bs).fontRom = s.fontRom := rfl
@[simp] theorem State.storeBytes_draws (s : State) (a : Nat) (bs : List Byte) : (s.storeBytes a bs).draws = s.draws := rfl
@[simp] theorem State.storeBytes_schedule (s : State) (a : Nat) (bs : List Byte) : (s.storeBytes a bs).schedule = s.schedule := rfl
@[simp] theorem State.storeBytes_events (s : State) (a : Nat) (bs : List Byte) : (s.storeBytes a bs).events = s.events := rfl

@[simp] theorem State.loadRegsUpTo_i (s : State) (a : Nat) (x : Reg) : (s.loadRegsUpTo a x).i = s.i := rfl
@[simp] theorem State.loadRegsUpTo_pc (s : State) (a : Nat) (x : Reg) : (s.loadRegsUpTo a x).pc = s.pc := rfl
@[simp] theorem State.loadRegsUpTo_sp (s : State) (a : Nat) (x : Reg) : (s.loadRegsUpTo a x).sp = s.sp := rfl
@[simp] theorem State.loadRegsUpTo_stack (s : State) (a : Nat) (x : Reg) : (s.loadRegsUpTo a x).stack = s.stack := rfl
@[simp] theorem State.loadRegsUpTo_dt (s : State) (a : Nat) (x : Reg) : (s.loadRegsUpTo a x).dt = s.dt := rfl
@[simp] theorem State.loadRegsUpTo_st (s : State) (a : Nat) (x : Reg) : (s.loadRegsUpTo a x).st = s.st := rfl
@[simp] theorem State.loadRegsUpTo_disp (s : State) (a : Nat) (x : Reg) : (s.loadRegsUpTo a x).disp = s.disp := rfl
@[simp] theorem State.loadRegsUpTo_key (s : State) (a : Nat) (x : Reg) : (s.loadRegsUpTo a x).key = s.key := rfl
@[simp] theorem State.loadRegsUpTo_sound (s : State) (a : Nat) (x : Reg) : (s.loadRegsUpTo a x).sound = s.sound := rfl
@[simp] theorem State.loadRegsUpTo_mem (s : State) (a : Nat) (x : Reg) : (s.loadRegsUpTo a x).mem = s.mem := rfl
@[simp] theorem State.loadRegsUpTo_fontRom (s : State) (a : Nat) (x : Reg) : (s.loadRegsUpTo a x).fontRom = s.fontRom := rfl
@[simp] theorem State.loadRegsUpTo_draws (s : State) (a : Nat) (x : Reg) : (s.loadRegsUpTo a x).draws = s.draws := rfl
@[simp] theorem State.loadRegsUpTo_schedule (s : State) (a : Nat) (x : Reg) : (s.loadRegsUpTo a x).schedule = s.schedule := rfl
@[simp] theorem State.loadRegsUpTo_events (s : State) (a : Nat) (x : Reg) : (s.loadRegsUpTo a x).events = s.events := rfl

@[simp] theorem State.setFlag_v (s : State) (flag : Bool) : (s.setFlag flag).v = s.v.set vf (flagByte flag) := rfl
@[simp] theorem State.setFlag_i (s : State) (flag : Bool) : (s.setFlag flag).i = s.i := rfl
@[simp] theorem State.setFlag_pc (s : State) (flag : Bool) : (s.setFlag flag).pc = s.pc := rfl
@[simp] theorem State.setFlag_sp (s : State) (flag : Bool) : (s.setFlag flag).sp = s.sp := rfl
@[simp] theorem State.setFlag_stack (s : State) (flag : Bool) : (s.setFlag flag).stack = s.stack := rfl
@[simp] theorem State.setFlag_dt (s : State) (flag : Bool) : (s.setFlag flag).dt = s.dt := rfl
@[simp] theorem State.setFlag_st (s : State) (flag : Bool) : (s.setFlag flag).st = s.st := rfl
@[simp] theorem State.setFlag_disp (s : State) (flag : Bool) : (s.setFlag flag).disp = s.disp := rfl
@[simp] theorem State.setFlag_key (s : State) (flag : Bool) : (s.setFlag flag).key = s.key := rfl
@[simp] theorem State.setFlag_sound (s : State) (flag : Bool) : (s.setFlag flag).sound = s.sound := rfl
@[simp] theorem State.setFlag_mem (s : State) (flag : Bool) : (s.setFlag flag).mem = s.mem := rfl
@[simp] theorem State.setFlag_fontRom (s : State) (flag : Bool) : (s.setFlag flag).fontRom = s.fontRom := rfl
@[simp] theorem State.setFlag_draws (s : State) (flag : Bool) : (s.setFlag flag).draws = s.draws := rfl
@[simp] theorem State.setFlag_schedule (s : State) (flag : Bool) : (s.setFlag flag).schedule = s.schedule := rfl
@[simp] theorem State.setFlag_events (s : State) (flag : Bool) : (s.setFlag flag).events = s.events := rfl

@[simp] theorem State.setResultFlag_v (s : State) (x : Reg) (b : Byte) (flag : Bool) : (s.setResultFlag x b flag).v = (s.v.set x b).set vf (flagByte flag) := rfl
@[simp] theorem State.setResultFlag_i (s : State) (x : Reg) (b : Byte) (flag : Bool) : (s.setResultFlag x b flag).i = s.i := rfl
@[simp] theorem State.setResultFlag_pc (s : State) (x : Reg) (b : Byte) (flag : Bool) : (s.setResultFlag x b flag).pc = s.pc := rfl
@[simp] theorem State.setResultFlag_sp (s : State) (x : Reg) (b : Byte) (flag : Bool) : (s.setResultFlag x b flag).sp = s.sp := rfl
@[simp] theorem State.setResultFlag_stack (s : State) (x : Reg) (b : Byte) (flag : Bool) : (s.setResultFlag x b flag).stack = s.stack := rfl
@[simp] theorem State.setResultFlag_dt (s : State) (x : Reg) (b : Byte) (flag : Bool) : (s.setResultFlag x b flag).dt = s.dt := rfl
@[simp] theorem State.setResultFlag_st (s : State) (x : Reg) (b : Byte) (flag : Bool) : (s.setResultFlag x b flag).st = s.st := rfl
@[simp] theorem State.setResultFlag_disp (s : State) (x : Reg) (b : Byte) (flag : Bool) : (s.setResultFlag x b flag).disp = s.disp := rfl
@[simp] theorem State.setResultFlag_key (s : State) (x : Reg) (b : Byte) (flag : Bool) : (s.setResultFlag x b flag).key = s.key := rfl
@[simp] theorem State.setResultFlag_sound (s : State) (x : Reg) (b : Byte) (flag : Bool) : (s.setResultFlag x b flag).sound = s.sound := rfl
@[simp] theorem State.setResultFlag_mem (s : State) (x : Reg) (b : Byte) (flag : Bool) : (s.setResultFlag x b flag).mem = s.mem := rfl
@[simp] theorem State.setResultFlag_fontRom (s : State) (x : Reg) (b : Byte) (flag : Bool) : (s.setResultFlag x b flag).fontRom = s.fontRom := rfl
@[simp] theorem State.setResultFlag_draws (s : State) (x : Reg) (b : Byte) (flag : Bool) : (s.setResultFlag x b flag).draws = s.draws := rfl
@[simp] theorem State.setResultFlag_schedule (s : State) (x : Reg) (b : Byte) (flag : Bool) : (s.setResultFlag x b flag).schedule = s.schedule := rfl
@[simp] theorem State.setResultFlag_events (s : State) (x : Reg) (b : Byte) (flag : Bool) : (s.setResultFlag x b flag).events = s.events := rfl

@[simp] theorem State.draw_v (s : State) : s.draw.2.v = s.v := rfl
@[simp] theorem State.draw_i (s : State) : s.draw.2.i = s.i := rfl
@[simp] theorem State.draw_pc (s : State) : s.draw.2.pc = s.pc := rfl
@[simp] theorem State.draw_sp (s : State) : s.draw.2.sp = s.sp := rfl
@[simp] theorem State.draw_stack (s : State) : s.draw.2.stack = s.stack := rfl
@[simp] theorem State.draw_dt (s : State) : s.draw.2.dt = s.dt := rfl
@[simp] theorem State.draw_st (s : State) : s.draw.2.st = s.st := rfl
@[simp] theorem State.draw_disp (s : State) : s.draw.2.disp = s.disp := rfl
@[simp] theorem State.draw_key (s : State) : s.draw.2.key = s.key := rfl
@[simp] theorem State.draw_sound (s : State) : s.draw.2.sound = s.sound := rfl
@[simp] theorem State.draw_mem (s : State) : s.draw.2.mem = s.mem := rfl
@[simp] theorem State.draw_fontRom (s : State) : s.draw.2.fontRom = s.fontRom := rfl
@[simp] theorem State.draw_draws (s : State) : s.draw.2.draws = s.draws + 1 := rfl
@[simp] theorem State.draw_schedule (s : State) : s.draw.2.schedule = s.schedule := rfl
@[simp] theorem State.draw_events (s : State) : s.draw.2.events = s.events := rfl

@[simp] theorem State.tick_v (s : State) : s.tick.v = s.v := rfl
@[simp] theorem State.tick_i (s : State) : s.tick.i = s.i := rfl
@[simp] theorem State.tick_pc (s : State) : s.tick.pc = s.pc := rfl
@[simp] theorem State.tick_sp (s : State) : s.tick.sp = s.sp := rfl
@[simp] theorem State.tick_stack (s : State) : s.tick.stack = s.stack := rfl
@[simp] theorem State.tick_dt (s : State) : s.tick.dt = countDown s.dt := rfl
@[simp] theorem State.tick_st (s : State) : s.tick.st = countDown s.st := rfl
@[simp] theorem State.tick_disp (s : State) : s.tick.disp = s.disp := rfl
@[simp] theorem State.tick_key (s : State) : s.tick.key = s.key := rfl
@[simp] theorem State.tick_sound (s : State) : s.tick.sound = (countDown s.st != 0) := rfl
@[simp] theorem State.tick_mem (s : State) : s.tick.mem = s.mem := rfl
@[simp] theorem State.tick_fontRom (s : State) : s.tick.fontRom = s.fontRom := rfl
@[simp] theorem State.tick_draws (s : State) : s.tick.draws = s.draws := rfl
@[simp] theorem State.tick_schedule (s : State) : s.tick.schedule = s.schedule := rfl
@[simp] theorem State.tick_events (s : State) : s.tick.events = [.sound (countDown s.st != 0)] := rfl

@[simp] theorem State.keyWrite_v (s : State) (k : Fin 16) (b : Bool) : (s.keyWrite k b).v = s.v := rfl
@[simp] theorem State.keyWrite_i (s : State) (k : Fin 16) (b : Bool) : (s.keyWrite k b).i = s.i := rfl
@[simp] theorem State.keyWrite_pc (s : State) (k : Fin 16) (b : Bool) : (s.keyWrite k b).pc = s.pc := rfl
@[simp] theorem State.keyWrite_sp (s : State) (k : Fin 16) (b : Bool) : (s.keyWrite k b).sp = s.sp := rfl
@[simp] theorem State.keyWrite_stack (s : State) (k : Fin 16) (b : Bool) : (s.keyWrite k b).stack = s.stack := rfl
@[simp] theorem State.keyWrite_dt (s : State) (k : Fin 16) (b : Bool) : (s.keyWrite k b).dt = s.dt := rfl
@[simp] theorem State.keyWrite_st (s : State) (k : Fin 16) (b : Bool) : (s.keyWrite k b).st = s.st := rfl
@[simp] theorem State.keyWrite_disp (s : State) (k : Fin 16) (b : Bool) : (s.keyWrite k b).disp = s.disp := rfl
@[simp] theorem State.keyWrite_key (s : State) (k : Fin 16) (b : Bool) : (s.keyWrite k b).key = s.key.set k b := rfl
@[simp] theorem State.keyWrite_sound (s : State) (k : Fin 16) (b : Bool) : (s.keyWrite k b).sound = s.sound := rfl
@[simp] theorem State.keyWrite_mem (s : State) (k : Fin 16) (b : Bool) : (s.keyWrite k b).mem = s.mem := rfl
@[simp] theorem State.keyWrite_fontRom (s : State) (k : Fin 16) (b : Bool) : (s.keyWrite k b).fontRom = s.fontRom := rfl
@[simp] theorem State.keyWrite_draws (s : State) (k : Fin 16) (b : Bool) : (s.keyWrite k b).draws = s.draws := rfl
@[simp] theorem State.keyWrite_schedule (s : State) (k : Fin 16) (b : Bool) : (s.keyWrite k b).schedule = s.schedule := rfl
@[simp] theorem State.keyWrite_events (s : State) (k : Fin 16) (b : Bool) : (s.keyWrite k b).events = [] := rfl

end Sys2Proof.Machine
end

