-- ==== Sys2Proof/Laws/Memory.lean ====
section
/-! SUPPORT. The laws of memory (20_memory.md R62, R63): a read after a write, and that every memory operation keeps the
canonical form. -/

namespace Sys2Proof.Machine

theorem Memory.lookup_head (k : Nat) (c : Byte) (m : Memory) (a : Nat) :
    Memory.lookup ((k, c) :: m) a = if k = a then some c else Memory.lookup m a := rfl

/-- Below the first listed address nothing is listed. -/
theorem Memory.lookup_below {m : Memory} {a : Nat} (h : ∀ c ∈ m, a < c.1) : Memory.lookup m a = none := by
  induction m with
  | nil => rfl
  | cons c m ih =>
    obtain ⟨k, b⟩ := c
    have hk : a < k := h (k, b) (by simp)
    rw [Memory.lookup_head, if_neg (by omega), ih fun c hc => h c (by simp [hc])]

theorem Memory.lookup_listing (v : Option Byte) (a b : Nat) (m : Memory) :
    Memory.lookup (v.toList.map (fun x => (a, x)) ++ m) b =
      if a = b then v.or (Memory.lookup m b) else Memory.lookup m b := by
  cases v <;> simp [Memory.lookup]

theorem Memory.lookup_put {m : Memory} (h : m.Pairwise (fun c d => c.1 < d.1)) (a : Nat) (v : Option Byte) (b : Nat) :
    Memory.lookup (Memory.put m a v) b = if a = b then v else Memory.lookup m b := by
  induction m with
  | nil => simpa [Memory.put, Memory.lookup] using Memory.lookup_listing v a b []
  | cons c m ih =>
    obtain ⟨k, x⟩ := c
    obtain ⟨hk, hm⟩ := List.pairwise_cons.mp h
    by_cases h1 : a < k
    · have below : Memory.lookup ((k, x) :: m) a = none := Memory.lookup_below fun c hc => by
        rcases List.mem_cons.mp hc with rfl | hc
        · exact h1
        · exact Nat.lt_trans h1 (hk c hc)
      rw [Memory.put, if_pos h1, Memory.lookup_listing]
      split_ifs with h3
      · subst h3; simp [below]
      · rfl
    · by_cases h2 : a = k
      · subst h2
        rw [Memory.put, if_neg h1, if_pos rfl, Memory.lookup_listing, Memory.lookup_head]
        split_ifs with h3
        · subst h3; simp [Memory.lookup_below hk]
        · rfl
      · rw [Memory.put, if_neg h1, if_neg h2, Memory.lookup_head, Memory.lookup_head, ih hm]
        split_ifs <;> first | rfl | omega

/-- What is listed after `put` was listed before, at another address, or is the new byte. -/
theorem Memory.mem_put {m : Memory} {a : Nat} {v : Option Byte} {c : Host.Cell} (h : c ∈ Memory.put m a v) :
    (c.1 = a ∧ v = some c.2) ∨ c ∈ m := by
  induction m with
  | nil => cases v <;> simp_all [Memory.put]
  | cons d m ih =>
    obtain ⟨k, x⟩ := d
    simp only [Memory.put] at h
    split_ifs at h with h1 h2
    · cases v <;> simp at h <;> aesop
    · cases v <;> simp at h <;> aesop
    · rcases List.mem_cons.mp h with rfl | h
      · simp
      · rcases ih h with h | h
        · exact .inl h
        · exact .inr (by simp [h])

theorem Memory.put_rising {m : Memory} (h : m.Pairwise (fun c d => c.1 < d.1)) (a : Nat) (v : Option Byte) :
    (Memory.put m a v).Pairwise (fun c d => c.1 < d.1) := by
  induction m with
  | nil => cases v <;> simp [Memory.put]
  | cons d m ih =>
    obtain ⟨k, x⟩ := d
    obtain ⟨hk, hm⟩ := List.pairwise_cons.mp h
    simp only [Memory.put]
    split_ifs with h1 h2
    · cases v with
      | none => simpa using h
      | some b =>
        refine List.pairwise_cons.mpr ⟨fun c hc => ?_, h⟩
        rcases List.mem_cons.mp hc with rfl | hc
        · exact h1
        · exact Nat.lt_trans h1 (hk c hc)
    · subst h2
      cases v with
      | none => simpa using hm
      | some b => exact List.pairwise_cons.mpr ⟨hk, hm⟩
    · refine List.pairwise_cons.mpr ⟨fun c hc => ?_, ih hm⟩
      rcases Memory.mem_put hc with ⟨rfl, -⟩ | hc
      · exact lt_of_le_of_ne (Nat.le_of_not_lt h1) fun e => h2 e.symm
      · exact hk c hc

/-- A write keeps the canonical form. -/
theorem Memory.write_wf {font : Vector Byte 80} {m : Memory} (h : Memory.wf font m) (a : Nat) (b : Byte) :
    Memory.wf font (Memory.write font m a b) := by
  unfold Memory.write
  split_ifs with ha hb
  · refine ⟨Memory.put_rising h.1 a none, fun c hc => ?_⟩
    rcases Memory.mem_put hc with ⟨-, hv⟩ | hc
    · cases hv
    · exact h.2 c hc
  · refine ⟨Memory.put_rising h.1 a (some b), fun c hc => ?_⟩
    rcases Memory.mem_put hc with ⟨rfl, hv⟩ | hc
    · cases hv; exact ⟨ha, hb⟩
    · exact h.2 c hc
  · exact h

/-- Stores keep the canonical form. -/
theorem Memory.writeBytes_wf {font : Vector Byte 80} {m : Memory} (h : Memory.wf font m) (a : Nat) (bs : List Byte) :
    Memory.wf font (Memory.writeBytes font m a bs) := by
  induction bs generalizing a with
  | nil => exact h
  | cons b bs ih => exact Memory.write_wf (ih (a + 1)) a b

/-- Empty memory, what reset leaves, is canonical for every font. -/
theorem Memory.nil_wf (font : Vector Byte 80) : Memory.wf font [] :=
  ⟨List.Pairwise.nil, fun _ h => nomatch h⟩

/-- A read after a write, in a memory whose addresses rise: the byte written, and every other address as before. -/
theorem Memory.read_write {m : Memory} (h : m.Pairwise (fun c d => c.1 < d.1)) (font : Vector Byte 80) {a : Nat}
    (ha : a < 4096) (b : Byte) (a' : Nat) :
    Memory.read font (Memory.write font m a b) a' = if a = a' then b else Memory.read font m a' := by
  unfold Memory.read Memory.write
  rw [if_pos (show a < Config.memSize from ha), Memory.lookup_put h]
  split_ifs with h1 h2
  · simp [h1, h2]
  · simp
  · rfl

/-- A write outside the address space stores nothing. -/
theorem Memory.write_outside (font : Vector Byte 80) (m : Memory) {a : Nat} (ha : 4096 ≤ a) (b : Byte) :
    Memory.write font m a b = m := by
  unfold Memory.write
  rw [if_neg (show ¬ a < Config.memSize from Nat.not_lt.mpr ha)]

/-- Everything a store of bytes can do to a read (R57): the j-th byte at `a + j`, every other address as before. -/
theorem Memory.read_writeBytes {font : Vector Byte 80} {m : Memory} (h : Memory.wf font m) (a : Nat) (bs : List Byte)
    (hb : a + bs.length ≤ 4096) (a' : Nat) :
    Memory.read font (Memory.writeBytes font m a bs) a' =
      if a ≤ a' then (bs[a' - a]?).getD (Memory.read font m a') else Memory.read font m a' := by
  induction bs generalizing a with
  | nil => simp [Memory.writeBytes]
  | cons b bs ih =>
    simp only [List.length_cons] at hb
    rw [Memory.writeBytes, Memory.read_write (Memory.writeBytes_wf h (a + 1) bs).1 font (by omega), ih (a + 1) (by omega)]
    by_cases h1 : a = a'
    · subst h1; simp
    · rw [if_neg h1]
      by_cases h2 : a + 1 ≤ a'
      · rw [if_pos h2, if_pos (by omega), show a' - a = a' - (a + 1) + 1 by omega, List.getElem?_cons_succ]
      · rw [if_neg h2, if_neg (by omega)]

theorem Memory.readBytes_length (font : Vector Byte 80) (m : Memory) (a n : Nat) :
    (Memory.readBytes font m a n).length = n := by
  induction n generalizing a with
  | zero => rfl
  | succ n ih => simp [Memory.readBytes, ih]

theorem Memory.readBytes_getElem? (font : Vector Byte 80) (m : Memory) (a n j : Nat) (h : j < n) :
    (Memory.readBytes font m a n)[j]? = some (Memory.read font m (a + j)) := by
  induction n generalizing a j with
  | zero => omega
  | succ n ih =>
    cases j with
    | zero => simp [Memory.readBytes]
    | succ j => rw [Memory.readBytes, List.getElem?_cons_succ, ih (a + 1) j (by omega), Nat.add_right_comm, Nat.add_assoc]

end Sys2Proof.Machine
end

