-- ==== Sys2Proof/Laws/Ops.lean ====
section
/-! SUPPORT. One lemma for each shared operation, saying once everything it can do. -/

namespace Sys2Proof.Machine

/-! ### Registers -/

theorem State.getV_eq (s : State) (r : Reg) : s.getV r = s.v[r] := rfl

/-- A register write (R8): that register and no other. -/
theorem State.getV_setV (s : State) (r : Reg) (b : Byte) (q : Reg) :
    (s.setV r b).getV q = if q = r then b else s.getV q := by
  simp [State.getV, State.setV, Vector.getElem_set, Fin.ext_iff, eq_comm]

/-- Result and flag (R22): VF holds the flag, the destination the result unless it is VF, the rest are as before. -/
theorem State.getV_setResultFlag (s : State) (x : Reg) (b : Byte) (flag : Bool) (q : Reg) :
    (s.setResultFlag x b flag).getV q = if q = vf then flagByte flag else if q = x then b else s.getV q := by
  rw [State.setResultFlag, State.setFlag, State.getV_setV, State.getV_setV]

theorem State.getV_setFlag (s : State) (flag : Bool) (q : Reg) :
    (s.setFlag flag).getV q = if q = vf then flagByte flag else s.getV q := by
  rw [State.setFlag, State.getV_setV]

/-- Two states with the same registers one by one have the same register file. -/
theorem State.v_ext {s t : State} (h : ∀ r, t.getV r = s.getV r) : t.v = s.v :=
  Vector.ext fun j hj => h ⟨j, hj⟩

/-- The register block read for Fx55 (R170). -/
theorem State.regsUpTo_length (s : State) (x : Reg) : (s.regsUpTo x).length = x.val + 1 := by
  simp [State.regsUpTo]

theorem State.regsUpTo_getElem? (s : State) {x j : Reg} (h : j ≤ x) : (s.regsUpTo x)[j.val]? = some (s.getV j) := by
  have : j.val ≤ x.val := h
  simp [State.regsUpTo, State.getV, Nat.lt_succ_of_le this]

/-- The register block written by Fx65 (R171). -/
theorem State.getV_loadRegsUpTo (s : State) (a : Nat) (x q : Reg) :
    (s.loadRegsUpTo a x).getV q = if q ≤ x then s.readByte (a + q.val) else s.getV q := by
  exact Vector.getElem_ofFn q.isLt

/-! ### Skips, stack -/

/-- A skip changes PC alone (R131). -/
theorem State.skipIf_eq (s : State) (c : Bool) : s.skipIf c = s.setPc (if c then s.pc + 2 else s.pc) := by
  cases c <;> rfl

/-- Pushing: what `call` does to SP and STACK (R26, R124). -/
theorem State.push_eq_some {s t : State} {w : Word} :
    s.push w = some t ↔
      ∃ h : s.sp.val < 16, t = { s with stack := s.stack.set s.sp.val w, sp := ⟨s.sp.val + 1, Nat.succ_lt_succ h⟩ } := by
  unfold State.push
  split_ifs with h
  · simp [h, eq_comm]
  · simp [h]

theorem State.push_eq_none {s : State} {w : Word} : s.push w = none ↔ s.sp.val = 16 := by
  unfold State.push
  have := s.sp.isLt
  split_ifs with h <;> simp <;> omega

/-- Popping: what `return` does to SP (R26, R122). -/
theorem State.pop_eq_some {s t : State} {w : Word} :
    s.pop = some (w, t) ↔
      ∃ h : 0 < s.sp.val, w = s.stack[s.sp.val - 1]'(Nat.sub_one_lt_of_le h (Nat.le_of_lt_succ s.sp.isLt)) ∧
        t = { s with sp := ⟨s.sp.val - 1, Nat.lt_of_le_of_lt (Nat.sub_le _ _) s.sp.isLt⟩ } := by
  unfold State.pop
  split_ifs with h
  · simp [h, eq_comm]
  · simp [h]

theorem State.pop_eq_none {s : State} : s.pop = none ↔ s.sp.val = 0 := by
  unfold State.pop
  split_ifs with h <;> simp <;> omega

/-! ### Operand forms -/

theorem State.ea_eq (s : State) (j : Nat) : s.ea j = s.i.toNat + j := rfl

/-- The data bounds check (R60): the answer, or Fatal cause 6 with the highest address. -/
theorem withDataRange_cases (s : State) (len : Nat) (k : Result) :
    (s.i.toNat + len ≤ 4096 ∨ len = 0) ∧ withDataRange s len k = k ∨
      (len ≠ 0 ∧ 4096 < s.i.toNat + len) ∧
        withDataRange s len k = .fault (.dataAddressOutOfBounds (s.i.toNat + len - 1) (s.pc - 2)) := by
  unfold withDataRange raise State.ea State.instrAddress Config.memSize
  split_ifs with h
  · exact .inl ⟨by omega, rfl⟩
  · exact .inr ⟨by omega, by rw [show s.i.toNat + (len - 1) = s.i.toNat + len - 1 by omega]⟩

theorem withDataRange_ok {s : State} {len : Nat} (k : Result) (h : s.i.toNat + len ≤ 4096 ∨ len = 0) :
    withDataRange s len k = k := by
  rcases withDataRange_cases s len k with h' | h'
  · exact h'.2
  · omega

/-- The key index check (R191, R192): the answer for the key, or Fatal cause 7. -/
theorem withKeyIndex_cases (s : State) (x : Reg) (k : Fin 16 → Result) :
    (∃ h : (s.getV x).toNat < 16, withKeyIndex s x k = k ⟨(s.getV x).toNat, h⟩) ∨
      15 < (s.getV x).toNat ∧ withKeyIndex s x k = .fault (.keyIndexOutOfRange (s.getV x) (s.pc - 2)) := by
  unfold withKeyIndex raise State.instrAddress
  split_ifs with h
  · exact .inl ⟨h, rfl⟩
  · exact .inr ⟨by omega, rfl⟩

theorem withKeyIndex_ok {s : State} {x : Reg} {k : Fin 16} (f : Fin 16 → Result) (h : k.val = (s.getV x).toNat) :
    withKeyIndex s x f = f k := by
  rcases withKeyIndex_cases s x f with ⟨h', he⟩ | h'
  · rw [he]; exact congrArg f (Fin.ext h.symm)
  · have := k.isLt; omega

theorem withKeyIndex_fault {s : State} {x : Reg} (f : Fin 16 → Result) (h : 15 < (s.getV x).toNat) :
    withKeyIndex s x f = .fault (.keyIndexOutOfRange (s.getV x) (s.pc - 2)) := by
  rcases withKeyIndex_cases s x f with ⟨h', -⟩ | h'
  · omega
  · exact h'.2

/-- The least pressed key (R193). -/
theorem State.leastPressed_eq_some {s : State} {k : Fin 16} :
    s.leastPressed = some k ↔ s.pressed k = true ∧ ∀ j < k, s.pressed j = false := by
  unfold State.leastPressed
  generalize s.pressed = p
  constructor
  · intro h
    obtain ⟨hk, i, hi, he, hlt⟩ := List.find?_eq_some_iff_getElem.mp h
    refine ⟨hk, fun j hj => ?_⟩
    have hik : i = k.val := by simpa using congrArg Fin.val he
    simpa using hlt j.val (by rw [hik]; exact hj)
  · rintro ⟨hk, hlt⟩
    refine List.find?_eq_some_iff_getElem.mpr ⟨hk, k.val, by simp, by simp, fun j hj => ?_⟩
    simpa using hlt ⟨j, by omega⟩ hj

theorem State.leastPressed_eq_none {s : State} : s.leastPressed = none ↔ ∀ k, s.pressed k = false := by
  simp [State.leastPressed]

/-! ### Memory of a state -/

/-- A store seen by a read (R57, R62): the j-th byte at `a + j`, every other address as before. -/
theorem State.readByte_storeBytes {s : State} (h : Memory.wf s.fontRom s.mem) (a : Nat) (bs : List Byte)
    (hb : a + bs.length ≤ 4096) (a' : Nat) :
    (s.storeBytes a bs).readByte a' = if a ≤ a' then (bs[a' - a]?).getD (s.readByte a') else s.readByte a' :=
  Memory.read_writeBytes h a bs hb a'

/-- The j-th stored byte. -/
theorem State.readByte_storeBytes_at {s : State} (h : Memory.wf s.fontRom s.mem) {a : Nat} {bs : List Byte}
    (hb : a + bs.length ≤ 4096) {j : Nat} {b : Byte} (hj : bs[j]? = some b) :
    (s.storeBytes a bs).readByte (a + j) = b := by
  rw [State.readByte_storeBytes h a bs hb, if_pos (Nat.le_add_right a j), Nat.add_sub_cancel_left, hj, Option.getD_some]

/-- Every address outside the stored bytes. -/
theorem State.readByte_storeBytes_off {s : State} (h : Memory.wf s.fontRom s.mem) {a : Nat} {bs : List Byte}
    (hb : a + bs.length ≤ 4096) {a' : Nat} (ha : a' < a ∨ a + bs.length ≤ a') :
    (s.storeBytes a bs).readByte a' = s.readByte a' := by
  rw [State.readByte_storeBytes h a bs hb]
  split_ifs with h1
  · rw [List.getElem?_eq_none (by omega), Option.getD_none]
  · rfl

/-- Reading depends on the font and on memory alone. -/
theorem State.readByte_congr {s t : State} (hf : t.fontRom = s.fontRom) (hm : t.mem = s.mem) (a : Nat) :
    t.readByte a = s.readByte a := by
  rw [State.readByte, State.readByte, hf, hm]

/-- The fetched opcode as a number (R56): the byte at the lower address times 256 plus the next. -/
theorem wordOfBytes_eq (hi lo : Byte) : wordOfBytes hi lo = BitVec.ofNat 16 (hi.toNat * 256 + lo.toNat) := by
  apply BitVec.eq_of_toNat_eq
  have h1 := hi.isLt
  have h2 := lo.isLt
  rw [wordOfBytes, BitVec.toNat_append, BitVec.toNat_ofNat, Nat.shiftLeft_eq, ← Nat.shiftLeft_eq,
    ← Nat.shiftLeft_add_eq_or_of_lt h2, Nat.shiftLeft_eq]
  omega

/-! ### Display -/

/-- Toggling one cell of the display (R183). -/
theorem Display.cell_toggle (d : Display) {c : Nat} (hc : c < 2048) (j : Nat) :
    Display.cell (Display.toggle d c) j = (Display.cell d j ^^ decide (c = j)) := by
  simp [Display.cell, Display.toggle, BitVec.getLsbD_twoPow, hc]

end Sys2Proof.Machine
end

