-- ==== Sys2Proof/Laws/Step.lean ====
section
/-! SUPPORT. What the engine's step and a transition of the machine can do, said once (40_engine_cycle.md R101, R110). -/

namespace Sys2Proof.Machine

/-- The engine's step (R101): out of bounds, undecodable, or the decoded instruction executed. -/
theorem State.engineStep_cases (s : State) :
    4094 < s.pc.toNat ∧ s.engineStep = .fatal (.outOfBoundsFetch s.pc) (s.emit []) ∨
      s.pc.toNat ≤ 4094 ∧ decode s.fetchWord = none ∧
        s.engineStep = .fatal (.decodeFailure s.fetchWord s.pc) (s.advancePc.emit []) ∨
      ∃ i, s.pc.toNat ≤ 4094 ∧ decode s.fetchWord = some i ∧
        s.engineStep = finishStep s.advancePc (exec i s.advancePc) := by
  unfold State.engineStep
  split_ifs with h
  · exact .inl ⟨h, rfl⟩
  · cases hd : decode s.fetchWord with
    | none => exact .inr (.inl ⟨by omega, rfl, rfl⟩)
    | some i => exact .inr (.inr ⟨i, by omega, rfl, rfl⟩)

theorem finishStep_eq_ok {started t : State} {r : Result} (h : finishStep started r = .ok t) :
    ∃ u, r = .next u ∧ t = u.emit [.render] := by
  cases r with
  | next u => exact ⟨u, rfl, by simpa [finishStep, eq_comm] using h⟩
  | fault f => cases h
  | refused f => cases h

theorem finishStep_eq_fatal {started left : State} {r : Result} {f : Fault} (h : finishStep started r = .fatal f left) :
    r = .fault f ∧ left = started.emit [] := by
  cases r with
  | next u => cases h
  | fault g => simp only [finishStep, OpResult.fatal.injEq] at h; exact ⟨by rw [h.1], h.2.symm⟩
  | refused g => cases h

/-- A successful engine step: the fetched instruction executed on the advanced state, then Render. -/
theorem State.engineStep_ok {s t : State} (h : s.engineStep = .ok t) :
    ∃ i u, s.pc.toNat ≤ 4094 ∧ decode s.fetchWord = some i ∧ exec i s.advancePc = .next u ∧ t = u.emit [.render] := by
  rcases s.engineStep_cases with ⟨-, h'⟩ | ⟨-, -, h'⟩ | ⟨i, hp, hd, h'⟩
  · rw [h'] at h; cases h
  · rw [h'] at h; cases h
  · obtain ⟨u, hu, ht⟩ := finishStep_eq_ok (h'.symm.trans h)
    exact ⟨i, u, hp, hd, hu, ht⟩

/-- A transition of the machine is one operation of the block that ended well. -/
theorem step_eq_next {s t : State} (h : step s = .next t) : s.nextOp.2.perform s.nextOp.1 = .ok t := by
  unfold step OpResult.outcome at h
  split at h
  · cases h; assumption
  · cases h
  · cases h

theorem State.nextOp_of_nil {s : State} (h : s.schedule = []) : s.nextOp = (.step, s) := by
  simp [State.nextOp, h]

theorem State.nextOp_of_cons {s : State} {op : HostOp} {rest : List HostOp} (h : s.schedule = op :: rest) :
    s.nextOp = (op, { s with schedule := rest }) := by
  simp [State.nextOp, h]

/-- Taking the next operation off the schedule changes nothing else. -/
theorem State.nextOp_rest (s : State) : ∃ rest, s.nextOp.2 = { s with schedule := rest } := by
  unfold State.nextOp
  split
  · exact ⟨s.schedule, rfl⟩
  · exact ⟨_, rfl⟩

/-- A run over one more step that ends well. -/
theorem run_succ_next {k : Nat} {s t : State} (h : step s = .next t) :
    Host.Core.run Sys2Proof.core (k + 1) s = Host.Core.run Sys2Proof.core k t := by
  have h' : Sys2Proof.core.step s = .next t := h
  simp only [Host.Core.run, h']

/-- A run that meets a fatal ends there (R208). -/
theorem run_succ_fault {k : Nat} {s : State} {f : Fault} (h : step s = .fault f) :
    Host.Core.run Sys2Proof.core (k + 1) s = .fault f := by
  have h' : Sys2Proof.core.step s = .fault f := h
  simp only [Host.Core.run, h']

/-! ### Endless runs (R111) -/

/-- A transition of an endless run is its operation, performed whole and well. -/
theorem EndlessRun.perform {ops : Nat → HostOp} {σ : Nat → State} (h : EndlessRun ops σ) (n : Nat) :
    State.perform { σ n with schedule := [] } (ops n) = .ok (σ (n + 1)) := by
  have h' := step_eq_next (h n)
  rwa [State.nextOp_of_cons (s := { σ n with schedule := [ops n] }) rfl] at h'

/-- A step of an endless run: the instruction fetched in the state it starts from, executed, then Render. -/
theorem EndlessRun.step {ops : Nat → HostOp} {σ : Nat → State} (h : EndlessRun ops σ) {n : Nat} (hs : ops n = .step) :
    ∃ i u, (σ n).fetches i ∧ exec i (State.advancePc { σ n with schedule := [] }) = .next u ∧
      σ (n + 1) = u.emit [.render] := by
  have h' := h.perform n
  rw [hs] at h'
  obtain ⟨i, u, hp, hd, hu, ht⟩ := State.engineStep_ok h'
  exact ⟨i, u, ⟨hp, (congrArg decode (wordOfBytes_eq _ _)).symm.trans hd⟩, hu, ht⟩

/-! ### Frames -/

theorem SameBut.refl (ps : List Part) (s : State) : SameBut ps s s := by
  intro p _; cases p <;> simp [Part.same]

/-- A frame from its parts: what is listed may differ, and memory that is the same data reads the same. -/
theorem SameBut.mono {ps qs : List Part} {s t : State} (h : SameBut ps s t) (hs : ps ⊆ qs) : SameBut qs s t :=
  fun p hp => h p fun hm => hp (hs hm)

theorem SameBut.trans {ps : List Part} {s t u : State} (h : SameBut ps s t) (k : SameBut ps t u) : SameBut ps s u := by
  intro p hp
  have h1 := h p hp
  have h2 := k p hp
  cases p <;> simp only [Part.same] at * <;> first | exact h2.trans h1 | exact fun a => (h2 a).trans (h1 a)

end Sys2Proof.Machine
end

