-- ==== Sys2Proof/Laws/Exec.lean ====
section
/-! SUPPORT. What an instruction that completes can leave, said once for all instructions: the next state of each, with the
condition under which it is reached. -/

namespace Sys2Proof.Machine

/-- The next state of an instruction (30_encoding.md R86, column rule), and when there is one. -/
def Completes (s t : State) : Instr → Prop
  | .cls => t = s.setDisp 0
  | .ret => ∃ w u, s.pop = some (w, u) ∧ t = u.setPc w
  | .sys _ => False
  | .jp nnn => t = s.setPc (target nnn)
  | .call nnn => ∃ u, s.push s.pc = some u ∧ t = u.setPc (target nnn)
  | .seVxKk x kk => t = s.skipIf (s.getV x == kk)
  | .sneVxKk x kk => t = s.skipIf (s.getV x != kk)
  | .seVxVy x y => t = s.skipIf (s.getV x == s.getV y)
  | .sneVxVy x y => t = s.skipIf (s.getV x != s.getV y)
  | .jpV0Nnn nnn => t = s.setPc (s.indexedTarget nnn)
  | .ldVxKk x kk => t = s.setV x kk
  | .addVxKk x kk => t = s.setV x (sum8 (s.getV x) kk)
  | .ldVxVy x y => t = s.setV x (s.getV y)
  | .orVxVy x y => t = s.setV x (s.getV x ||| s.getV y)
  | .andVxVy x y => t = s.setV x (s.getV x &&& s.getV y)
  | .xorVxVy x y => t = s.setV x (s.getV x ^^^ s.getV y)
  | .addVxVy x y => t = s.setResultFlag x (sum8 (s.getV x) (s.getV y)) (carryOf (s.getV x) (s.getV y))
  | .subVxVy x y => t = s.setResultFlag x (diff8 (s.getV x) (s.getV y)) (greaterThan (s.getV x) (s.getV y))
  | .shrVxVy x _ => t = s.setResultFlag x (half8 (s.getV x)) (lowBit (s.getV x))
  | .subnVxVy x y => t = s.setResultFlag x (diff8 (s.getV y) (s.getV x)) (greaterThan (s.getV y) (s.getV x))
  | .shlVxVy x _ => t = s.setResultFlag x (double8 (s.getV x)) (highBit (s.getV x))
  | .rndVxKk x kk => t = s.draw.2.setV x (s.draw.1 &&& kk)
  | .ldINnn nnn => t = s.setI (target nnn)
  | .addIVx x => t = s.setI (s.indexPlus (s.getV x))
  | .ldFVx x => t = s.setI (glyphAddress (s.getV x))
  | .ldBVx x => s.i.toNat + 2 < 4096 ∧ t = s.storeBytes (s.ea 0) (bcdDigits (s.getV x))
  | .ldMemIVx x => s.i.toNat + x.val < 4096 ∧ t = s.storeBytes (s.ea 0) (s.regsUpTo x)
  | .ldVxMemI x => s.i.toNat + x.val < 4096 ∧ t = s.loadRegsUpTo (s.ea 0) x
  | .drwVxVyN x y n => (n.toNat = 0 ∨ s.i.toNat + n.toNat ≤ 4096) ∧ t = (s.setDisp (drawn x y n s).1).setFlag (drawn x y n s).2
  | .skpVx x => ∃ k : Fin 16, k.val = (s.getV x).toNat ∧ t = s.skipIf (s.pressed k)
  | .sknpVx x => ∃ k : Fin 16, k.val = (s.getV x).toNat ∧ t = s.skipIf (!s.pressed k)
  | .ldVxDt x => t = s.setV x s.dt
  | .ldVxK x => (∃ k, s.leastPressed = some k ∧ t = s.setV x (BitVec.ofNat 8 k.val)) ∨ (s.leastPressed = none ∧ t = s.rewindPc)
  | .ldDtVx x => t = s.setDt (s.getV x)
  | .ldStVx x => t = s.setSt (s.getV x)

theorem next_eq_next {t u : State} : (.next u : Result) = .next t ↔ t = u := by
  constructor
  · intro h; cases h; rfl
  · rintro rfl; rfl

theorem withDataRange_eq_next {s t u : State} {len : Nat} :
    withDataRange s len (.next u) = .next t ↔ (len = 0 ∨ s.i.toNat + len ≤ 4096) ∧ t = u := by
  rcases withDataRange_cases s len (.next u) with ⟨h, h'⟩ | ⟨h, h'⟩ <;> rw [h']
  · rw [next_eq_next]; exact ⟨fun e => ⟨h.symm, e⟩, fun e => e.2⟩
  · exact ⟨fun e => (by cases e), fun e => (by omega)⟩

theorem withKeyIndex_eq_next {s t : State} {x : Reg} {f : Fin 16 → State} :
    withKeyIndex s x (fun k => .next (f k)) = .next t ↔ ∃ k : Fin 16, k.val = (s.getV x).toNat ∧ t = f k := by
  constructor
  · intro h
    rcases withKeyIndex_cases s x (fun k => .next (f k)) with ⟨hk, h'⟩ | ⟨-, h'⟩ <;> rw [h'] at h
    · exact ⟨_, rfl, next_eq_next.mp h⟩
    · cases h
  · rintro ⟨k, hk, rfl⟩
    rw [withKeyIndex_ok _ hk]

/-- An instruction completes exactly where, and exactly as, `Completes` says. -/
theorem exec_eq_next (i : Instr) (s t : State) : exec i s = .next t ↔ Completes s t i := by
  cases i
  case sys nnn => exact ⟨fun h => (by cases h), fun h => h.elim⟩
  case ret =>
    simp only [exec, execRet, Completes]
    cases hp : s.pop with
    | none => simp [raise]
    | some wu => obtain ⟨w, u⟩ := wu; simp [eq_comm]
  case call nnn =>
    simp only [exec, execCall, Completes]
    cases hp : s.push s.pc with
    | none => simp [raise]
    | some u => simp [eq_comm]
  case ldVxK x =>
    simp only [exec, execLdVxK, Completes]
    cases hp : s.leastPressed with
    | none => simp [eq_comm]
    | some k => simp [eq_comm]
  case drwVxVyN x y n => exact withDataRange_eq_next
  case ldBVx x => exact withDataRange_eq_next.trans (by simp only [Completes]; constructor <;> rintro ⟨h, e⟩ <;> exact ⟨by omega, e⟩)
  case ldMemIVx x =>
    exact withDataRange_eq_next.trans (by simp only [Completes]; constructor <;> rintro ⟨h, e⟩ <;> exact ⟨by omega, e⟩)
  case ldVxMemI x =>
    exact withDataRange_eq_next.trans (by simp only [Completes]; constructor <;> rintro ⟨h, e⟩ <;> exact ⟨by omega, e⟩)
  case skpVx x => exact withKeyIndex_eq_next (f := fun k => s.skipIf (s.pressed k))
  case sknpVx x => exact withKeyIndex_eq_next (f := fun k => s.skipIf (!s.pressed k))
  all_goals exact next_eq_next

end Sys2Proof.Machine
end

