-- ==== Sys2Proof/Laws/PerInstr.lean ====
section
/-! SUPPORT. Per instruction: the encoded word matches the instruction's own row of the opcode map (30_encoding.md R86). -/

namespace Sys2Proof.Laws.EncodeMatchesRow

/-- Mask and pattern of an instruction's row (R86). -/
def rowOf : Instr → Word × Word
  | .cls => (0xFFFF, 0x00E0)
  | .ret => (0xFFFF, 0x00EE)
  | .sys _ => (0xF000, 0x0000)
  | .jp _ => (0xF000, 0x1000)
  | .call _ => (0xF000, 0x2000)
  | .seVxKk _ _ => (0xF000, 0x3000)
  | .sneVxKk _ _ => (0xF000, 0x4000)
  | .seVxVy _ _ => (0xF00F, 0x5000)
  | .ldVxKk _ _ => (0xF000, 0x6000)
  | .addVxKk _ _ => (0xF000, 0x7000)
  | .ldVxVy _ _ => (0xF00F, 0x8000)
  | .orVxVy _ _ => (0xF00F, 0x8001)
  | .andVxVy _ _ => (0xF00F, 0x8002)
  | .xorVxVy _ _ => (0xF00F, 0x8003)
  | .addVxVy _ _ => (0xF00F, 0x8004)
  | .subVxVy _ _ => (0xF00F, 0x8005)
  | .shrVxVy _ _ => (0xF00F, 0x8006)
  | .subnVxVy _ _ => (0xF00F, 0x8007)
  | .shlVxVy _ _ => (0xF00F, 0x800E)
  | .sneVxVy _ _ => (0xF00F, 0x9000)
  | .ldINnn _ => (0xF000, 0xA000)
  | .jpV0Nnn _ => (0xF000, 0xB000)
  | .rndVxKk _ _ => (0xF000, 0xC000)
  | .drwVxVyN _ _ _ => (0xF000, 0xD000)
  | .skpVx _ => (0xF0FF, 0xE09E)
  | .sknpVx _ => (0xF0FF, 0xE0A1)
  | .ldVxDt _ => (0xF0FF, 0xF007)
  | .ldVxK _ => (0xF0FF, 0xF00A)
  | .ldDtVx _ => (0xF0FF, 0xF015)
  | .ldStVx _ => (0xF0FF, 0xF018)
  | .addIVx _ => (0xF0FF, 0xF01E)
  | .ldFVx _ => (0xF0FF, 0xF029)
  | .ldBVx _ => (0xF0FF, 0xF033)
  | .ldMemIVx _ => (0xF0FF, 0xF055)
  | .ldVxMemI _ => (0xF0FF, 0xF065)

/-- The word of the instruction, under its row's mask, is its row's pattern. -/
def Statement (i : Instr) : Prop := encode i &&& (rowOf i).1 = (rowOf i).2

theorem cls : Statement (.cls) := rfl
theorem ret : Statement (.ret) := rfl
theorem sys (nnn : Addr12) : Statement (.sys nnn) := and_major_nnn _ _
theorem jp (nnn : Addr12) : Statement (.jp nnn) := and_major_nnn _ _
theorem call (nnn : Addr12) : Statement (.call nnn) := and_major_nnn _ _
theorem seVxKk (x : Reg) (kk : Byte) : Statement (.seVxKk x kk) := and_major_xkk _ _ _
theorem sneVxKk (x : Reg) (kk : Byte) : Statement (.sneVxKk x kk) := and_major_xkk _ _ _
theorem seVxVy (x y : Reg) : Statement (.seVxVy x y) := and_minor_nibble _ _ _ _
theorem ldVxKk (x : Reg) (kk : Byte) : Statement (.ldVxKk x kk) := and_major_xkk _ _ _
theorem addVxKk (x : Reg) (kk : Byte) : Statement (.addVxKk x kk) := and_major_xkk _ _ _
theorem ldVxVy (x y : Reg) : Statement (.ldVxVy x y) := and_minor_nibble _ _ _ _
theorem orVxVy (x y : Reg) : Statement (.orVxVy x y) := and_minor_nibble _ _ _ _
theorem andVxVy (x y : Reg) : Statement (.andVxVy x y) := and_minor_nibble _ _ _ _
theorem xorVxVy (x y : Reg) : Statement (.xorVxVy x y) := and_minor_nibble _ _ _ _
theorem addVxVy (x y : Reg) : Statement (.addVxVy x y) := and_minor_nibble _ _ _ _
theorem subVxVy (x y : Reg) : Statement (.subVxVy x y) := and_minor_nibble _ _ _ _
theorem shrVxVy (x y : Reg) : Statement (.shrVxVy x y) := and_minor_nibble _ _ _ _
theorem subnVxVy (x y : Reg) : Statement (.subnVxVy x y) := and_minor_nibble _ _ _ _
theorem shlVxVy (x y : Reg) : Statement (.shlVxVy x y) := and_minor_nibble _ _ _ _
theorem sneVxVy (x y : Reg) : Statement (.sneVxVy x y) := and_minor_nibble _ _ _ _
theorem ldINnn (nnn : Addr12) : Statement (.ldINnn nnn) := and_major_nnn _ _
theorem jpV0Nnn (nnn : Addr12) : Statement (.jpV0Nnn nnn) := and_major_nnn _ _
theorem rndVxKk (x : Reg) (kk : Byte) : Statement (.rndVxKk x kk) := and_major_xkk _ _ _
theorem drwVxVyN (x y : Reg) (n : Nibble) : Statement (.drwVxVyN x y n) := and_major_xyn _ _ _ _
theorem skpVx (x : Reg) : Statement (.skpVx x) := and_minor_byte _ _ _
theorem sknpVx (x : Reg) : Statement (.sknpVx x) := and_minor_byte _ _ _
theorem ldVxDt (x : Reg) : Statement (.ldVxDt x) := and_minor_byte _ _ _
theorem ldVxK (x : Reg) : Statement (.ldVxK x) := and_minor_byte _ _ _
theorem ldDtVx (x : Reg) : Statement (.ldDtVx x) := and_minor_byte _ _ _
theorem ldStVx (x : Reg) : Statement (.ldStVx x) := and_minor_byte _ _ _
theorem addIVx (x : Reg) : Statement (.addIVx x) := and_minor_byte _ _ _
theorem ldFVx (x : Reg) : Statement (.ldFVx x) := and_minor_byte _ _ _
theorem ldBVx (x : Reg) : Statement (.ldBVx x) := and_minor_byte _ _ _
theorem ldMemIVx (x : Reg) : Statement (.ldMemIVx x) := and_minor_byte _ _ _
theorem ldVxMemI (x : Reg) : Statement (.ldVxMemI x) := and_minor_byte _ _ _

end Sys2Proof.Laws.EncodeMatchesRow
end

