-- ==== Sys2Proof/Tests/Slice0.lean ====
section
/-! SUPPORT. Tests of the model and witnesses of the statements' hypotheses. Expected results come from spec/ alone:
95_test_vectors.md by the id in each comment (tables 2.1 to 2.6, scenarios E1 to E11), or the rule named. -/

namespace Sys2Proof.Tests

open Sys2Proof.Machine

/-! ### Helpers -/

/-- The reset state with the opcode at 0x200. -/
def prog (op : Nat) : State := State.reset.withFetchWord 16 op

/-- The state with these registers set. -/
def regs (s : State) (l : List (Reg × Byte)) : State := l.foldl (fun t p => t.setV p.1 p.2) s

/-- The state with these keys pressed. -/
def keys (s : State) (l : List (Fin 16)) : State := l.foldl (fun t k => { t with key := t.key.set k.val true }) s

/-- What one transition leaves, read by `f`. -/
def after {α : Type} (s : State) (f : State → α) : Option α :=
  match step s with
  | .next t => some (f t)
  | .fault _ => none
  | .refused _ => none

/-- The fatal that one transition ends with. -/
def stop (s : State) : Option Fault :=
  match step s with
  | .next _ => none
  | .fault f => some f
  | .refused _ => none

/-- The state that an operation's fatal leaves, read by `f`. -/
def left {α : Type} (r : OpResult) (f : State → α) : Option (Fault × α) :=
  match r with
  | .ok _ => none
  | .fatal c t => some (c, f t)
  | .refused _ => none

/-- The set cells of a display row. -/
def row (t : State) (cy : Nat) : List Nat := (List.range 64).filter fun cx => t.disp.cell (cy * 64 + cx)

/-- A display with exactly these cells (column, row) set. -/
def cells (l : List (Nat × Nat)) : Display := l.foldl (fun d p => d.toggle (p.2 * 64 + p.1)) 0

/-! ### Well-formedness (30_encoding.md R85): each check with a term it refuses -/

theorem test_wf_refuses_sys_0E0 : (Instr.sys 0x0E0).wf = false := by decide
theorem test_wf_refuses_sys_0EE : (Instr.sys 0x0EE).wf = false := by decide
theorem test_wf_accepts : ((Instr.sys 0x0E1).wf && (Instr.sys 0).wf && (Instr.drwVxVyN 15 15 15).wf) = true := by decide

/-! ### Decoding: words written out from R82 and R86 -/

/-- Control transfer, bit by bit. CALL nnn = 2nnn with nnn = 0010 0000 0110. -/
theorem test_word_call : decode 0b0010_0010_0000_0110 = some (.call 0x206) := by decide
/-- Load and arithmetic, bit by bit. SHR Vx,Vy = 8xy6 with x = 0100, y = 0101. -/
theorem test_word_shr : decode 0b1000_0100_0101_0110 = some (.shrVxVy 4 5) := by decide
/-- Immediate, bit by bit. LD Vx,kk = 6xkk with x = 1010, kk = 1011 1100. -/
theorem test_word_ld : decode 0b0110_1010_1011_1100 = some (.ldVxKk 10 0xBC) := by decide
/-- Index and memory, bit by bit. LD [I],Vx = Fx55 with x = 0001. -/
theorem test_word_store : decode 0b1111_0001_0101_0101 = some (.ldMemIVx 1) := by decide
/-- Display, bit by bit. DRW Vx,Vy,n = Dxyn with x = 1111, y = 0001, n = 0110. -/
theorem test_word_draw : decode 0b1101_1111_0001_0110 = some (.drwVxVyN 15 1 6) := by decide
/-- Keypad, bit by bit. SKNP Vx = ExA1 with x = 0101. -/
theorem test_word_sknp : decode 0b1110_0101_1010_0001 = some (.sknpVx 5) := by decide
/-- Timers, bit by bit. LD DT,Vx = Fx15 with x = 0010. -/
theorem test_word_timer : decode 0b1111_0010_0001_0101 = some (.ldDtVx 2) := by decide

/-- One row of the opcode map with a word of it: mask and pattern of R86, the word, the instruction. -/
def rowWords : List (Word × Word × Word × Instr) :=
  [(0xFFFF, 0x00E0, 0x00E0, .cls), (0xFFFF, 0x00EE, 0x00EE, .ret), (0xF000, 0x0000, 0x0FFF, .sys 0xFFF),
   (0xF000, 0x1000, 0x1FFF, .jp 0xFFF), (0xF000, 0x2000, 0x2206, .call 0x206), (0xF000, 0x3000, 0x332A, .seVxKk 3 0x2A),
   (0xF000, 0x4000, 0x432A, .sneVxKk 3 0x2A), (0xF00F, 0x5000, 0x5120, .seVxVy 1 2)] ++
  [(0xF000, 0x6000, 0x6ABC, .ldVxKk 10 0xBC), (0xF000, 0x7000, 0x71FF, .addVxKk 1 0xFF), (0xF00F, 0x8000, 0x8010, .ldVxVy 0 1),
   (0xF00F, 0x8001, 0x8011, .orVxVy 0 1), (0xF00F, 0x8002, 0x8012, .andVxVy 0 1), (0xF00F, 0x8003, 0x8013, .xorVxVy 0 1),
   (0xF00F, 0x8004, 0x8F14, .addVxVy 15 1), (0xF00F, 0x8005, 0x80F5, .subVxVy 0 15)] ++
  [(0xF00F, 0x8006, 0x8456, .shrVxVy 4 5), (0xF00F, 0x8007, 0x80F7, .subnVxVy 0 15), (0xF00F, 0x800E, 0x845E, .shlVxVy 4 5),
   (0xF00F, 0x9000, 0x9120, .sneVxVy 1 2), (0xF000, 0xA000, 0xAFFF, .ldINnn 0xFFF), (0xF000, 0xB000, 0xB2FF, .jpV0Nnn 0x2FF),
   (0xF000, 0xC000, 0xC30F, .rndVxKk 3 0x0F), (0xF000, 0xD000, 0xD015, .drwVxVyN 0 1 5)] ++
  [(0xF0FF, 0xE09E, 0xE59E, .skpVx 5), (0xF0FF, 0xE0A1, 0xE5A1, .sknpVx 5), (0xF0FF, 0xF007, 0xF207, .ldVxDt 2),
   (0xF0FF, 0xF00A, 0xF40A, .ldVxK 4), (0xF0FF, 0xF015, 0xF215, .ldDtVx 2), (0xF0FF, 0xF018, 0xF318, .ldStVx 3),
   (0xF0FF, 0xF01E, 0xF21E, .addIVx 2), (0xF0FF, 0xF029, 0xF329, .ldFVx 3), (0xF0FF, 0xF033, 0xF033, .ldBVx 0)] ++
  [(0xF0FF, 0xF055, 0xF155, .ldMemIVx 1), (0xF0FF, 0xF065, 0xF265, .ldVxMemI 2)]

/-- Every constructor's word decodes to it. -/
theorem test_every_row_decodes : rowWords.map (fun r => decode r.2.2.1) = rowWords.map (fun r => some r.2.2.2) := by decide
/-- Every constructor encodes to its word. -/
theorem test_every_row_encodes : rowWords.map (fun r => encode r.2.2.2) = rowWords.map (fun r => r.2.2.1) := by decide
/-- The map's masks and patterns are those of R86, in its order. -/
theorem test_opcode_map : opcodeMap.map (fun d => (d.mask, d.pattern)) = rowWords.map (fun r => (r.1, r.2.1)) := by decide
/-- Witness of every DecodesAs: each row's word has the row's pattern under its mask. -/
theorem test_witness_rows : rowWords.all (fun r => r.2.2.1 &&& r.1 == r.2.1) = true := by decide

/-- X4 to X10: words that match no row. -/
theorem test_illegal_words :
    [0x5121, 0x8018, 0x801F, 0x9121, 0xE19F, 0xF1FF, 0xF175].map decode = [none, none, none, none, none, none, none] := by decide
/-- Memory order (R56): the byte at the lower address is the high byte. -/
theorem test_decode_bytes : decodeBytes [0xD0, 0x15, 0x77] = .ok (.drwVxVyN 0 1 5, [0x77]) := by decide
theorem test_decode_truncated : decodeBytes [0xD0] = .error .truncated := by decide
theorem test_decode_named : decodeBytes [0xF1, 0x75] = .error (.noDescriptor 0xF175) := by decide
theorem test_table_word : decodeTableWord 16 0x8014 = some (.addVxVy 0 1) := by decide

/-! ### Reset (R38) and the engine cycle -/

theorem test_reset_pc : State.reset.pc = 0x200 ∧ State.reset.sp.val = 0 ∧ State.reset.readByte 0x200 = 0 := by decide
/-- Glyphs 0 and F of the default font (R53). -/
theorem test_reset_font : State.reset.readBytes 0 5 = [0xF0, 0x90, 0x90, 0x90, 0xF0] ∧
    State.reset.readBytes 75 6 = [0xF0, 0x80, 0xF0, 0x80, 0x80, 0x00] := by decide
/-- X14: the first step from the bare reset state. -/
theorem test_reset_first_step : stop State.reset = some (.unimplementedSys 0 0x200) := by decide
/-- X1: the last word of memory. -/
theorem test_step_at_top : after ((State.reset.setPc 4094).withFetchWord 16 0x6007) (fun t => (t.getV 0, t.pc, t.events)) =
    some (7, 4096, [.render]) := by decide
/-- X2 and X3. -/
theorem test_step_out_of_bounds :
    (stop (State.reset.setPc 4095), stop (State.reset.setPc 0xFFFF)) =
      (some (.outOfBoundsFetch 4095), some (.outOfBoundsFetch 0xFFFF)) := by decide
/-- X4: the state that a decode failure leaves. -/
theorem test_step_undecodable :
    left ((prog 0x5121).perform .step) (fun t => (t.pc, t.events)) = some (.decodeFailure 0x5121 0x200, 0x202, []) := by decide
/-- J4, its second half: an odd address is fetched as it is. -/
theorem test_step_odd : after ((State.reset.setPc 0x203).withFetchWord 16 0x6B0A) (fun t => (t.getV 11, t.pc)) =
    some (0x0A, 0x205) := by decide
/-- The scheduled operation comes before STEP (log 3). -/
theorem test_step_schedule : after { prog 0x6007 with schedule := [.keyWrite 3 true], dt := 5 }
    (fun t => (t.pressed 3, t.pc, t.schedule)) = some (true, 0x200, []) := by decide

/-! ### Control transfer -/

/-- J1. -/
theorem test_jp : after (prog 0x1234) (fun t => t.pc) = some 0x234 := by decide
/-- J5. -/
theorem test_call : after (prog 0x2206) (fun t => (t.stack[0], t.sp.val, t.pc)) = some (0x202, 1, 0x206) := by decide
/-- J7. -/
theorem test_call_overflow : left ({ prog 0x2300 with sp := 16 }.perform .step) (fun t => (t.pc, t.sp.val)) =
    some (.stackOverflow 0x200, 0x202, 16) := by decide
/-- J8. -/
theorem test_ret : after { prog 0x00EE with sp := 2, stack := (Vector.replicate 16 0).set 1 0x345 } (fun t => (t.sp.val, t.pc)) =
    some (1, 0x345) := by decide
/-- J9, E4. -/
theorem test_ret_underflow : left ((prog 0x00EE).perform .step) (fun t => (t.pc, t.sp.val)) =
    some (.stackUnderflow 0x200, 0x202, 0) := by decide
/-- J10 and J11. -/
theorem test_se_kk : (after (regs (prog 0x332A) [(3, 0x2A)]) (fun t => t.pc), after (regs (prog 0x332A) [(3, 0x2B)]) (fun t => t.pc)) =
    (some 0x204, some 0x202) := by decide
/-- J12 and J13. -/
theorem test_sne_kk : (after (regs (prog 0x432A) [(3, 0x2A)]) (fun t => t.pc), after (prog 0x432A) (fun t => t.pc)) =
    (some 0x202, some 0x204) := by decide
/-- J14 and J15. -/
theorem test_se_reg : (after (regs (prog 0x5120) [(1, 7), (2, 7)]) (fun t => t.pc),
    after (regs (prog 0x5120) [(1, 7), (2, 8)]) (fun t => t.pc)) = (some 0x204, some 0x202) := by decide
/-- J17 and J18. -/
theorem test_sne_reg : (after (regs (prog 0x9120) [(1, 7), (2, 8)]) (fun t => t.pc),
    after (regs (prog 0x9120) [(1, 7), (2, 7)]) (fun t => t.pc)) = (some 0x204, some 0x202) := by decide
/-- J21. -/
theorem test_jp_v0 : after (regs (prog 0xBFFF) [(0, 0xFF)]) (fun t => t.pc) = some 0x10FE := by decide
/-- J22: bits 11 .. 8 belong to the address, V2 is not used. -/
theorem test_jp_v0_register : after (regs (prog 0xB2FF) [(2, 0x55)]) (fun t => t.pc) = some 0x2FF := by decide
/-- J27. -/
theorem test_sys : left ((prog 0x00E1).perform .step) (fun t => (t.pc, t.events)) =
    some (.unimplementedSys 0x0E1 0x200, 0x202, []) := by decide

/-! ### Load, arithmetic, logic, shifts, random: VF before is 0xAA where the table says so -/

/-- A1. -/
theorem test_ld_kk : after (regs (prog 0x6ABC) [(15, 0xAA)]) (fun t => (t.getV 10, t.getV 15)) = some (0xBC, 0xAA) := by decide
/-- A3. -/
theorem test_add_kk : after (regs (prog 0x7001) [(0, 0xFF), (15, 0xAA)]) (fun t => (t.getV 0, t.getV 15)) = some (0, 0xAA) := by decide
/-- A7. -/
theorem test_ld_reg : after (regs (prog 0x8010) [(1, 9), (15, 0xAA)]) (fun t => (t.getV 0, t.getV 15)) = some (9, 0xAA) := by decide
/-- A8. -/
theorem test_or : after (regs (prog 0x8011) [(0, 0x0F), (1, 0xF0), (15, 0xAA)]) (fun t => (t.getV 0, t.getV 15)) =
    some (0xFF, 0xAA) := by decide
/-- A9. -/
theorem test_and : after (regs (prog 0x8012) [(0, 0x3C), (1, 0x0F), (15, 0xAA)]) (fun t => (t.getV 0, t.getV 15)) =
    some (0x0C, 0xAA) := by decide
/-- A10. -/
theorem test_xor : after (regs (prog 0x8013) [(0, 0xFF), (1, 0x0F), (15, 0xAA)]) (fun t => (t.getV 0, t.getV 15)) =
    some (0xF0, 0xAA) := by decide
/-- A16 and A17: the sums 255 and 256. -/
theorem test_add : (after (regs (prog 0x8014) [(0, 0xC8), (1, 0x37)]) (fun t => (t.getV 0, t.getV 15)),
    after (regs (prog 0x8014) [(0, 0xC8), (1, 0x38)]) (fun t => (t.getV 0, t.getV 15))) = (some (0xFF, 0), some (0, 1)) := by decide
/-- A20 and A22: VF as destination and as source. -/
theorem test_add_vf : (after (regs (prog 0x8F14) [(15, 0xF0), (1, 0x20)]) (fun t => t.getV 15),
    after (regs (prog 0x80F4) [(0, 0xFF), (15, 1)]) (fun t => (t.getV 0, t.getV 15))) = (some 1, some (0, 1)) := by decide
/-- A24 and A25: the borrow and the strict equality. -/
theorem test_sub : (after (regs (prog 0x8015) [(0, 0x03), (1, 0x0A)]) (fun t => (t.getV 0, t.getV 15)),
    after (regs (prog 0x8015) [(0, 5), (1, 5)]) (fun t => (t.getV 0, t.getV 15))) = (some (0xF9, 0), some (0, 0)) := by decide
/-- A31 and A32. -/
theorem test_sub_vf : (after (regs (prog 0x8FF5) [(15, 1)]) (fun t => t.getV 15),
    after (regs (prog 0x80F5) [(0, 1), (15, 1)]) (fun t => (t.getV 0, t.getV 15))) = (some 0, some (0, 0)) := by decide
/-- A45: Vy is ignored. -/
theorem test_shr : after (regs (prog 0x8456) [(4, 0x80), (5, 0x03)]) (fun t => (t.getV 4, t.getV 15, t.getV 5)) =
    some (0x40, 0, 3) := by decide
/-- A42 and A46. -/
theorem test_shr_flag : (after (regs (prog 0x8406) [(4, 0xFF)]) (fun t => (t.getV 4, t.getV 15)),
    after (regs (prog 0x8F16) [(15, 3)]) (fun t => t.getV 15)) = (some (0x7F, 1), some 1) := by decide
/-- A33 and A39. -/
theorem test_subn : (after (regs (prog 0x8017) [(0, 0x0A), (1, 3)]) (fun t => (t.getV 0, t.getV 15)),
    after (regs (prog 0x80F7) [(15, 1)]) (fun t => (t.getV 0, t.getV 15))) = (some (0xF9, 0), some (1, 1)) := by decide
/-- A52: Vy is ignored. -/
theorem test_shl : after (regs (prog 0x845E) [(4, 1), (5, 0xFF)]) (fun t => (t.getV 4, t.getV 15, t.getV 5)) =
    some (2, 0, 0xFF) := by decide
/-- A47 and A54. -/
theorem test_shl_flag : (after (regs (prog 0x840E) [(4, 0x81)]) (fun t => (t.getV 4, t.getV 15)),
    after (regs (prog 0x8F1E) [(15, 1)]) (fun t => t.getV 15)) = (some (2, 1), some 0) := by decide
/-- A56: any draw, masked with 0; VF and the count of draws beside it. -/
theorem test_rnd : (after (regs (prog 0xC300) [(3, 9), (15, 0xAA)]) fun t => (t.getV 3, t.getV 15, t.draws)) =
    some (0, 0xAA, 1) := by
  have h : Config.rndIn 0 &&& 0#8 = 0#8 := BitVec.and_zero
  have e : (after (regs (prog 0xC300) [(3, 9), (15, 0xAA)]) fun t => (t.getV 3, t.getV 15, t.draws)) =
      some (Config.rndIn 0 &&& 0#8, 0xAA, 1) := rfl
  exact e.trans (by rw [h]; rfl)

/-! ### Index and memory -/

/-- M2. -/
theorem test_ld_i : after ((prog 0xAFFF).setI 0xFFFF) (fun t => t.i) = some 0x0FFF := by decide
/-- M4 and M5. -/
theorem test_add_i : (after (regs ((prog 0xF21E).setI 0xFFF) [(2, 1), (15, 0xAA)]) (fun t => (t.i, t.getV 15)),
    after (regs ((prog 0xF21E).setI 0xFFFF) [(2, 2)]) (fun t => t.i)) = (some (0x1000, 0xAA), some 1) := by decide
/-- M6 and M10. -/
theorem test_ld_f : (after (regs (prog 0xF329) [(3, 0x0A)]) (fun t => t.i), after (regs (prog 0xF329) [(3, 0xFF)]) (fun t => t.i)) =
    (some 0x32, some 0x4FB) := by decide
/-- M19. -/
theorem test_bcd : after (regs ((prog 0xF033).setI 4093) [(0, 255)]) (fun t => t.readBytes 4092 4) = some [0, 2, 5, 5] := by decide
/-- M20. -/
theorem test_bcd_out_of_bounds : stop ((prog 0xF033).setI 4094) = some (.dataAddressOutOfBounds 4096 0x200) := by decide
/-- M21: V2 is not stored, I is unchanged. -/
theorem test_store : after (regs ((prog 0xF155).setI 0x400) [(0, 0x12), (1, 0x34), (2, 0x56)])
    (fun t => (t.readBytes 0x400 3, t.i)) = some ([0x12, 0x34, 0], 0x400) := by decide
/-- M24. -/
theorem test_store_out_of_bounds : stop ((prog 0xFF55).setI 0xFF1) = some (.dataAddressOutOfBounds 4096 0x200) := by decide
/-- M25: V3 is not loaded, I is unchanged. -/
theorem test_load : after (regs (((prog 0xF265).setI 0x300).storeBytes 0x300 [1, 5, 6, 9]) [(3, 0x77)])
    (fun t => ((t.getV 0, t.getV 1, t.getV 2, t.getV 3), t.i)) = some ((1, 5, 6, 0x77), 0x300) := by decide
/-- M27. -/
theorem test_load_out_of_bounds : stop ((prog 0xF165).setI 0xFFF) = some (.dataAddressOutOfBounds 4096 0x200) := by decide
/-- M30: no protection of the font; writing the reset content back unlists the address. -/
theorem test_memory_canonical :
    ((State.reset.storeBytes 0 [0xFF]).mem, ((State.reset.storeBytes 0 [0xFF]).storeBytes 0 [0xF0]).mem) = ([(0, 0xFF)], []) := by decide

/-! ### Display -/

/-- S12. -/
theorem test_cls : after (regs { prog 0x00E0 with disp := BitVec.allOnes 2048 } [(15, 1)]) (fun t => (t.disp == 0, t.getV 15)) =
    some (true, 1) := by decide +kernel
/-- S2: columns wrap within the row. -/
theorem test_draw_wrap : after (regs (((prog 0xD011).setI 0x300).storeBytes 0x300 [0xFF]) [(0, 63)])
    (fun t => (row t 0, row t 1, t.getV 15)) = some ([0, 1, 2, 3, 4, 5, 6, 63], [], 0) := by decide +kernel
/-- S5: collision. -/
theorem test_draw_collision :
    after { ((prog 0xD011).setI 0x300).storeBytes 0x300 [0x3C] with disp := cells [(0, 0), (1, 0), (2, 0), (3, 0)] }
      (fun t => (row t 0, t.getV 15)) = some ([0, 1, 4, 5], 1) := by decide +kernel
/-- S4: rows wrap. -/
theorem test_draw_rows : after (regs (((prog 0xD012).setI 0x300).storeBytes 0x300 [0x80, 0x80]) [(1, 31)])
    (fun t => t.disp == cells [(0, 31), (0, 0)]) = some true := by decide +kernel
/-- S11: the old VF is the column. -/
theorem test_draw_vf : after (regs (((prog 0xDF11).setI 0x300).storeBytes 0x300 [0x80]) [(15, 5)])
    (fun t => (t.disp == cells [(5, 0)], t.getV 15)) = some (true, 0) := by decide +kernel
/-- S7: no row, no access, VF cleared. -/
theorem test_draw_none : after (regs ((prog 0xD010).setI 0xFFFF) [(15, 1)]) (fun t => (t.disp == 0, t.getV 15)) = some (true, 0) := by decide +kernel
/-- S8. -/
theorem test_draw_out_of_bounds : stop ((prog 0xD017).setI 4090) = some (.dataAddressOutOfBounds 4096 0x200) := by decide +kernel

/-! ### Keypad and timers -/

/-- K1 and K2. -/
theorem test_skp : (after (keys (regs (prog 0xE59E) [(5, 10)]) [10]) (fun t => t.pc),
    after (keys (regs (prog 0xE59E) [(5, 10)]) [11]) (fun t => t.pc)) = (some 0x204, some 0x202) := by decide
/-- K5. -/
theorem test_skp_index : stop (regs (prog 0xE59E) [(5, 0x10)]) = some (.keyIndexOutOfRange 0x10 0x200) := by decide
/-- K3 and K4. -/
theorem test_sknp : (after (regs (prog 0xE5A1) [(5, 10)]) (fun t => t.pc),
    after (keys (regs (prog 0xE5A1) [(5, 10)]) [10]) (fun t => t.pc)) = (some 0x204, some 0x202) := by decide
/-- K6. -/
theorem test_sknp_index : stop (regs (prog 0xE5A1) [(5, 0xFF)]) = some (.keyIndexOutOfRange 0xFF 0x200) := by decide
/-- K7: no key. -/
theorem test_key_wait : after (regs (prog 0xF40A) [(4, 0x33)]) (fun t => (t.pc, t.getV 4, t.events)) =
    some (0x200, 0x33, [.render]) := by decide
/-- K9: the lowest index. -/
theorem test_key_wait_lowest : after (keys (prog 0xF40A) [15, 7, 3]) (fun t => (t.getV 4, t.pc)) = some (3, 0x202) := by decide
/-- K12. -/
theorem test_ld_vx_dt : after { prog 0xF207 with dt := 0x3C } (fun t => (t.getV 2, t.dt)) = some (0x3C, 0x3C) := by decide
/-- K13. -/
theorem test_ld_dt_vx : after (regs (prog 0xF215) [(2, 60)]) (fun t => (t.dt, t.st)) = some (60, 0) := by decide
/-- K14. -/
theorem test_ld_st_vx : after (regs (prog 0xF318) [(3, 2)]) (fun t => (t.st, t.sound, t.dt)) = some (2, false, 0) := by decide
/-- T2 and T3. -/
theorem test_tick : (after { State.reset with dt := 1, st := 1, schedule := [.tick] } (fun t => ((t.dt, t.st), t.sound, t.events)),
    after { State.reset with dt := 5, st := 2, schedule := [.tick] } (fun t => ((t.dt, t.st), t.sound, t.events))) =
    (some ((0, 0), false, [.sound false]), some ((4, 1), true, [.sound true])) := by decide
/-- E11: the program is gone after a reset, the font is back. -/
theorem test_reset_operation :
    after { (prog 0x600A).storeBytes 0 [0xFF] with schedule := [.reset] } (fun t => (t.readByte 0, t.readByte 0x200, t.mem)) =
      some (0xF0, 0, []) := by decide
/-- E1: the image at 0x200. -/
theorem test_load_program :
    after { State.reset with schedule := [.loadProgram [0x60, 0x0A, 0x61, 0x05, 0x80, 0x14]] }
      (fun t => (t.readBytes 0x200 7, t.pc, t.events)) = some ([0x60, 0x0A, 0x61, 0x05, 0x80, 0x14, 0], 0x200, []) := by decide
/-- X13: the length is checked, the reset state is left. -/
theorem test_load_overflow (s : State) (h : (List.replicate 3585 (0x12 : Byte)).length = 3585) :
    s.loadProgram (List.replicate 3585 0x12) = .fatal (.loadOverflow 3585) s.resetOp := by
  rw [State.loadProgram, h, if_neg (by decide)]

/-! ### Witnesses: for each statement with hypotheses, states and operands that meet them, clause by clause -/

/-- Of EncodedInstructionsDecodeBack and DecodedWordsEncodeBack. -/
theorem test_witness_encoding : (Instr.sys 0xFFF).wf = true ∧ decode 0xD015 = some (.drwVxVyN 0 1 5) := by decide

/-- Of StepRunsTheDecodedInstruction: out of bounds with nothing scheduled, PC = 4095. -/
theorem test_witness_step_bounds :
    (State.reset.setPc 4095).schedule = [] ∧ 4094 < (State.reset.setPc 4095).pc.toNat := by decide
/-- Of StepRunsTheDecodedInstruction: the last word of memory undecodable, with STEP scheduled first. -/
theorem test_witness_step_undecodable :
    { State.reset.setPc 4094 with schedule := [.step, .tick] }.schedule = .step :: [.tick] ∧
      { (State.reset.setPc 4094).withFetchWord 16 0x5121 with schedule := [.tick] }.pc.toNat ≤ 4094 ∧
      decode ((State.reset.setPc 4094).withFetchWord 16 0x5121).fetchWord = none := by decide
/-- Of StepRunsTheDecodedInstruction: a word that decodes and runs, and one that decodes and faults. -/
theorem test_witness_step_decodes :
    (prog 0x6007).pc.toNat ≤ 4094 ∧ decode (prog 0x6007).fetchWord = some (.ldVxKk 0 7) ∧
      (∃ t, exec (.ldVxKk 0 7) { prog 0x6007 with pc := (prog 0x6007).pc + 2 } = .next t) ∧
      ∃ f, exec .ret { prog 0x00EE with pc := (prog 0x00EE).pc + 2 } = .fault f :=
  ⟨by decide, by decide, ⟨_, rfl⟩, ⟨_, rfl⟩⟩

/-- Of FatalsArePrecise: cause 1, cause 5 and another cause; of RenderFollowsEverySuccessfulStep its fatal side. -/
theorem test_witness_fatals :
    (∃ t, (State.reset.setPc 4095).perform .step = .fatal (.outOfBoundsFetch 4095) t) ∧
      (∃ t, State.reset.perform (.loadProgram (List.replicate 3585 0x12)) = .fatal (.loadOverflow 3585) t) ∧
      (∃ t, (prog 0x00EE).perform .step = .fatal (.stackUnderflow 0x200) t) ∧
      (Fault.outOfBoundsFetch 4095).cause = 1 ∧ (Fault.loadOverflow 3585).cause = 5 ∧ (Fault.stackUnderflow 0x200).cause = 4 :=
  ⟨⟨_, rfl⟩, ⟨_, test_load_overflow _ List.length_replicate⟩, ⟨_, rfl⟩, rfl, rfl, rfl⟩

/-- Of EveryTransitionKeepsTheInvariant. -/
theorem test_witness_invariant : (prog 0x6007).Inv ∧ ∃ t, step (prog 0x6007) = .next t :=
  ⟨⟨by decide, by decide, by decide⟩, ⟨_, rfl⟩⟩

/-- Of LoadProgramResetsThenCopiesTheImage: the longest image that fits, and the shortest that does not. -/
theorem test_witness_load : (List.replicate 3584 (0x12 : Byte)).length ≤ 3584 ∧ 3584 < (List.replicate 3585 (0x12 : Byte)).length := by
  rw [List.length_replicate, List.length_replicate]; exact ⟨le_refl _, Nat.lt_succ_self _⟩

/-- Of SoundReportIsActiveIffTwoOrMore, OperationsWriteOnlyTheirState and RenderFollowsEverySuccessfulStep: each operation
ends well. -/
theorem test_witness_operations :
    (∃ t, (prog 0x6007).perform .step = .ok t) ∧ (∃ t, State.reset.perform .tick = .ok t) ∧
      (∃ t, State.reset.perform (.keyWrite 15 true) = .ok t) ∧ (∃ t, State.reset.perform .reset = .ok t) ∧
      ∃ t, State.reset.perform (.loadProgram [0x60, 0x07]) = .ok t :=
  ⟨⟨_, rfl⟩, ⟨_, rfl⟩, ⟨_, rfl⟩, ⟨_, rfl⟩, ⟨_, rfl⟩⟩

/-- Of WaitingStepOnlyRenders. -/
theorem test_witness_waiting : (prog 0xF40A).fetches (.ldVxK 4) ∧ ∀ k, (prog 0xF40A).pressed k = false :=
  ⟨⟨by decide, by decide⟩, by decide⟩

/-- Of SelfJumpRunsForever. -/
theorem test_witness_self_jump : (prog 0x1200).schedule = [] ∧ (prog 0x1200).fetches (.jp 0x200) ∧
    (prog 0x1200).pc.toNat = (0x200 : Addr12).toNat ∧ ∃ t, Host.Core.run Sys2Proof.core 1 (prog 0x1200) = .next t :=
  ⟨by decide, ⟨by decide, by decide⟩, by decide, ⟨_, rfl⟩⟩

/-- Of EachPieceOfStateHasItsOwnWriters: I, SP with the stack, DT. -/
theorem test_witness_writers_registers :
    (∃ t, exec (.ldINnn 5) State.reset = .next t ∧ t.i ≠ State.reset.i) ∧
      (∃ t, exec (.call 5) (State.reset.setPc 0x202) = .next t ∧ t.sp ≠ State.reset.sp ∧ t.stack ≠ State.reset.stack) ∧
      ∃ t, exec (.ldDtVx 1) (regs State.reset [(1, 9)]) = .next t ∧ t.dt ≠ State.reset.dt :=
  ⟨⟨_, rfl, by decide⟩, ⟨_, rfl, by decide, by decide⟩, ⟨_, rfl, by decide⟩⟩
/-- Of EachPieceOfStateHasItsOwnWriters: ST, the display, memory, the draws. -/
theorem test_witness_writers_units :
    (∃ t, exec (.ldStVx 1) (regs State.reset [(1, 9)]) = .next t ∧ t.st ≠ State.reset.st) ∧
      (∃ t, exec .cls { State.reset with disp := cells [(3, 0)] } = .next t ∧ t.disp.cell 3 ≠ (cells [(3, 0)]).cell 3) ∧
      (∃ t, exec (.ldMemIVx 0) (regs State.reset [(0, 9)]) = .next t ∧ t.readByte 0 ≠ State.reset.readByte 0) ∧
      ∃ t, exec (.rndVxKk 0 0) State.reset = .next t ∧ t.draws ≠ State.reset.draws :=
  ⟨⟨_, rfl, by decide⟩, ⟨_, rfl, by decide +kernel⟩, ⟨_, rfl, by decide⟩, ⟨_, rfl, by decide⟩⟩

/-- Of FlagRegisterIsWrittenBySixInstructionsOrAsData and OnlyControlTransferMovesThePc: one instruction of each kind. -/
theorem test_witness_flag_and_pc :
    (∃ t, exec (.addVxVy 0 1) State.reset = .next t) ∧ (∃ t, exec (.ldVxMemI 14) State.reset = .next t ∧ (14 : Reg) ≠ vf) ∧
      (∃ t, exec (.jp 5) State.reset = .next t) ∧ (∃ t, exec (.seVxKk 0 0) State.reset = .next t) ∧
      ∃ t, exec (.ldVxK 0) (State.reset.setPc 0x202) = .next t :=
  ⟨⟨_, rfl⟩, ⟨_, rfl, by decide⟩, ⟨_, rfl⟩, ⟨_, rfl⟩, ⟨_, rfl⟩⟩

/-- Of SoundTimerIsUnobservable: an instruction that ends well, and one that ends with a fatal. -/
theorem test_witness_sound_timer :
    (∃ t, exec (.ldVxDt 0) State.reset = .next t) ∧ ∃ f, exec (.sys 0) State.reset = .fault f := ⟨⟨_, rfl⟩, ⟨_, rfl⟩⟩

/-- A state that differs from reset in dead stack slots only. -/
def deadSlot : State := { State.reset with stack := (Vector.replicate 16 0).set 0 0x345 }

/-- Of DeadStackSlotsAreUnobservable, with CALL (ends well) and RET (ends with a fatal). -/
theorem test_witness_dead_slots : SameBut [.stack] State.reset deadSlot ∧ deadSlot.mem = State.reset.mem ∧
    (∀ j : Fin 16, j.val < State.reset.sp.val → deadSlot.stack[j] = State.reset.stack[j]) ∧
    (∃ t, exec (.call 5) State.reset = .next t) ∧ ∃ f, exec .ret State.reset = .fault f := by
  refine ⟨fun p hp => ?_, rfl, by decide, ⟨_, rfl⟩, ⟨_, rfl⟩⟩
  cases p <;> first | exact absurd (List.mem_singleton.mpr rfl) hp | rfl | exact fun _ => rfl

/-- Of SystemCallAlwaysRaisesCauseEight. -/
theorem test_witness_sys : ((0x00E1 : Word) &&& 0xF000 = 0 ∧ (0x00E1 : Word) ≠ 0x00E0 ∧ (0x00E1 : Word) ≠ 0x00EE) ∧
    (prog 0x00E1).fetches (.sys 0x0E1) := ⟨by decide, by decide, by decide⟩

/-- Of CallPushesTheReturnAddress and ReturnPopsIntoThePc: the depths 0, 1, 15 and 16. -/
theorem test_witness_stack :
    ((15 : Fin 17).val < 16 ∧ (16 : Fin 17).val = 16) ∧ (1 : Fin 17).val = (0 : Fin 16).val + 1 ∧
      (16 : Fin 17).val = (15 : Fin 16).val + 1 ∧ (0 : Fin 17).val = 0 := by decide

/-- Of ReturnUndoesCall: the callee's state with another register changed. -/
theorem test_witness_return : ∃ t, exec (.call 0x206) (State.reset.setPc 0x202) = .next t ∧
    (t.setV 3 7).sp = t.sp ∧ (t.setV 3 7).stack = t.stack := ⟨_, rfl, rfl, rfl⟩

/-- Of SkipsAdvanceByFourOrTwo: taken at 0xFFE (J24), not taken, and a key skip with the index 15. -/
theorem test_witness_skips :
    (((State.reset.setPc 0xFFE).withFetchWord 16 0x3000).fetches (.seVxKk 0 0) ∧
      skipCondition ((State.reset.setPc 0xFFE).withFetchWord 16 0x3000) (.seVxKk 0 0) =
        some (((State.reset.setPc 0xFFE).withFetchWord 16 0x3000).getV 0 = 0) ∧
      ((State.reset.setPc 0xFFE).withFetchWord 16 0x3000).getV 0 = 0 ∧
      ∃ t, ((State.reset.setPc 0xFFE).withFetchWord 16 0x3000).perform .step = .ok t ∧ 4094 < t.pc.toNat) ∧
      ((prog 0x3001).fetches (.seVxKk 0 1) ∧ ¬ (prog 0x3001).getV 0 = 1) ∧
      (regs (prog 0xE59E) [(5, 15)]).fetches (.skpVx 5) ∧ ((regs (prog 0xE59E) [(5, 15)]).getV 5).toNat ≤ 15 ∧
      ∀ x, ¬ (Instr.seVxKk 0 0 = .skpVx x ∨ Instr.seVxKk 0 0 = .sknpVx x) :=
  ⟨⟨⟨by decide, by decide⟩, rfl, by decide, ⟨_, rfl, by decide⟩⟩, ⟨⟨by decide, by decide⟩, by decide⟩, ⟨by decide, by decide⟩,
    by decide, by decide⟩

/-- Of SameRegisterOperandsCollapse: with VF and with another register. -/
theorem test_witness_same_register :
    (∃ t, exec (.ldVxVy 3 3) State.reset = .next t) ∧ (∃ t, exec (.xorVxVy 15 15) State.reset = .next t) ∧
      (∃ t, exec (.addVxVy 3 3) (regs State.reset [(3, 0x80)]) = .next t ∧ (3 : Reg) ≠ vf) ∧
      ∃ t, exec (.subnVxVy 15 15) State.reset = .next t :=
  ⟨⟨_, rfl⟩, ⟨_, rfl⟩, ⟨_, rfl, by decide⟩, ⟨_, rfl⟩⟩

/-- Of the frames of the flag writers: x may be VF or not, and a third register is there. -/
theorem test_witness_registers : (14 : Reg) ≠ vf ∧ (0 : Reg) ≠ 14 ∧ (0 : Reg) ≠ vf := by decide

/-- Of BcdStoresThreeDigits: I = 4093 and I = 4094. -/
theorem test_witness_bcd : Memory.wf State.reset.fontRom (State.reset.setI 4093).mem ∧ (State.reset.setI 4093).ea 2 ≤ 4095 ∧
    4095 < (State.reset.setI 4094).ea 2 := ⟨Memory.nil_wf _, by decide, by decide⟩

/-- Of StoreRegistersCopiesTheBlock and LoadRegistersCopiesTheBlock: I + x = 4095 and 4096. -/
theorem test_witness_block : Memory.wf State.reset.fontRom (State.reset.setI 0xFF0).mem ∧
    (State.reset.setI 0xFF0).ea (15 : Reg).val ≤ 4095 ∧ 4095 < (State.reset.setI 0xFF1).ea (15 : Reg).val :=
  ⟨Memory.nil_wf _, by decide, by decide⟩

/-- Of StoredRegistersLoadBack: the state after the store with a register overwritten. -/
theorem test_witness_load_back : Memory.wf State.reset.fontRom State.reset.mem ∧
    ∃ t, exec (.ldMemIVx 15) (regs (State.reset.setI 0xFF0) [(0, 7), (15, 9)]) = .next t ∧
      (t.setV 0 1).mem = t.mem ∧ (t.setV 0 1).fontRom = t.fontRom ∧ (t.setV 0 1).i = t.i :=
  ⟨Memory.nil_wf _, _, rfl, rfl, rfl, rfl⟩

/-- Of NextFetchSeesTheStoredBytes: P5's store to the bytes at PC. -/
theorem test_witness_store_then_fetch : Memory.wf State.reset.fontRom State.reset.mem ∧
    ∃ t, exec (.ldMemIVx 1) (regs ((State.reset.setPc 0x208).setI 0x208) [(0, 0x6C), (1, 0x77)]) = .next t ∧
      (1 : Reg).val = (0 : Reg).val + 1 ∧ t.pc.toNat = (State.reset.setI 0x208).ea (0 : Reg).val :=
  ⟨Memory.nil_wf _, _, rfl, rfl, by decide⟩

/-- One row of eight 1 pixels at the last byte of memory. -/
def lastRow : State := (State.reset.setI 4095).storeBytes 4095 [0xFF]

/-- Of DrawTogglesTheCoveredCells: no row with I = 0xFFFF, the last row at 4095, and the last row at 4096. -/
theorem test_witness_draw_range : (0 : Nibble).toNat = 0 ∧ lastRow.ea ((1 : Nibble).toNat - 1) ≤ 4095 ∧
    1 ≤ (2 : Nibble).toNat ∧ 4095 < lastRow.ea ((2 : Nibble).toNat - 1) := by decide
/-- Of DrawTogglesTheCoveredCells: a cell that is covered, a cell that is not. -/
theorem test_witness_draw_cells : SpriteCovers 0 1 1 lastRow 7 0 ∧ ¬ SpriteCovers 0 1 1 lastRow 8 0 := by
  refine ⟨⟨0, by decide, 7, by decide, by decide, by decide, by decide⟩, ?_⟩
  rintro ⟨r, -, c, hc, h, -⟩
  have h0 : (lastRow.getV 0).toNat = 0 := by decide
  rw [h0] at h
  omega
/-- Of DrawTogglesTheCoveredCells: a covered cell that is set, and a clear display. -/
theorem test_witness_draw_collision :
    (∃ cx < 64, ∃ cy < 32, SpriteCovers 0 1 1 { lastRow with disp := cells [(7, 0)] } cx cy ∧
      (cells [(7, 0)]).cell (cy * 64 + cx) = true) ∧ lastRow.disp = 0 :=
  ⟨⟨7, by decide, 0, by decide, ⟨0, by decide, 7, by decide, by decide, by decide, by decide⟩, by decide +kernel⟩, rfl⟩

/-- Of DrawingTwiceRestoresTheDisplay. -/
theorem test_witness_draw_twice : ∃ t u, (0 : Reg) ≠ vf ∧ (1 : Reg) ≠ vf ∧ exec (.drwVxVyN 0 1 1) lastRow = .next t ∧
    exec (.drwVxVyN 0 1 1) t = .next u := ⟨_, _, by decide, by decide, rfl, rfl⟩

/-- Of KeySkipsTestTheNamedLatch: V[x] = 15 and 16. -/
theorem test_witness_keys : (15 : Fin 16).val = ((regs State.reset [(3, 15)]).getV 3).toNat ∧
    15 < ((regs State.reset [(3, 16)]).getV 3).toNat := by decide

/-- Of KeyWaitTakesTheLeastPressedKey: key 15 alone, and no key. -/
theorem test_witness_key_wait : ((keys State.reset [15]).pressed 15 = true ∧ ∀ j : Fin 16, j < 15 → (keys State.reset [15]).pressed j = false) ∧
    ∀ k, State.reset.pressed k = false := by decide

/-! ### Endless runs (40_engine_cycle.md R111) -/

/-- Ticks from a state on, for ever. -/
def tickRun (s : State) : Nat → State
  | 0 => s
  | n + 1 => State.tick { tickRun s n with schedule := [] }

/-- One step, then ticks for ever. -/
def stepThenTicks : Nat → HostOp
  | 0 => .step
  | _ + 1 => .tick

/-- LD V0,7 with both timers full, and what that run makes of it. -/
def timerRun : Nat → State
  | 0 => { prog 0x6007 with dt := 255, st := 255 }
  | n + 1 => tickRun { prog 0x6007 with dt := 255, st := 255, v := (Vector.replicate 16 0).set 0 7, pc := 0x202, events := [.render] } n

/-- Of FairTicksRunTheTimersOut. -/
theorem test_witness_fair_ticks : EndlessRun stepThenTicks timerRun ∧ TickFair stepThenTicks ∧
    NeverExecutes (fun i => ∃ x, i = .ldDtVx x) stepThenTicks timerRun ∧
    NeverExecutes (fun i => ∃ x, i = .ldStVx x) stepThenTicks timerRun := by
  refine ⟨fun n => ?_, fun n => ⟨n + 1, Nat.le_succ n, rfl⟩, ?_, ?_⟩
  · cases n <;> rfl
  all_goals
    rintro n i hn ⟨-, hd⟩ ⟨x, rfl⟩
    cases n
    · exact absurd hd (by revert x; decide)
    · cases hn

/-- Key 15 pressed, one step, then ticks for ever. -/
def pressThenStep : Nat → HostOp
  | 0 => .keyWrite 15 true
  | 1 => .step
  | _ + 2 => .tick

/-- LD V4,K, and what that run makes of it. -/
def pressRun : Nat → State
  | 0 => prog 0xF40A
  | 1 => (prog 0xF40A).keyWrite 15 true
  | n + 2 => tickRun { (prog 0xF40A).keyWrite 15 true with v := (Vector.replicate 16 0).set 4 15, pc := 0x202, events := [.render] } n

/-- Of KeyWaitEndsWhenAPressIsSeen. -/
theorem test_witness_press : EndlessRun pressThenStep pressRun ∧ KeepsProgram pressThenStep ∧ KeyPressSeen pressThenStep ∧
    (pressRun 0).fetches (.ldVxK 4) := by
  refine ⟨fun n => ?_, fun n => ?_, ⟨15, 0, 1, by decide, rfl, rfl, fun j h1 h2 => by omega⟩, ⟨by decide, by decide⟩⟩
  · match n with
    | 0 => rfl
    | 1 => rfl
    | _ + 2 => rfl
  · match n with
    | 0 => exact ⟨nofun, nofun⟩
    | 1 => exact ⟨nofun, nofun⟩
    | _ + 2 => exact ⟨nofun, nofun⟩

/-- The state that a step on LD V4,K with no key pressed leaves, again and again. -/
def waiting : State := { prog 0xF40A with events := [.render] }

theorem test_waiting_is_a_fixed_point : waiting.perform .step = .ok waiting := by decide +kernel
theorem test_waiting_decodes : decode (BitVec.ofNat 16
    ((waiting.readByte waiting.pc.toNat).toNat * 256 + (waiting.readByte (waiting.pc.toNat + 1)).toNat)) = some (.ldVxK 4) := by decide

/-- LD V4,K stepped for ever with no key pressed. -/
def waitRun : Nat → State
  | 0 => prog 0xF40A
  | _ + 1 => waiting

/-- Of WaitsDoNotEndWithoutTheHost, both clauses. -/
theorem test_witness_no_host : EndlessRun (fun _ => .step) waitRun ∧ KeepsProgram (fun _ => .step) ∧
    NeverExecutes (fun i => ∃ x, i = .ldDtVx x ∨ i = .ldStVx x) (fun _ => .step) waitRun ∧
    (waitRun 0).fetches (.ldVxK 4) ∧ (∀ k, (waitRun 0).pressed k = false) ∧
    (∀ n : Nat, (fun _ : Nat => HostOp.step) n ≠ .tick ∧ ∀ k, (fun _ : Nat => HostOp.step) n ≠ .keyWrite k true) := by
  refine ⟨fun n => ?_, fun n => ⟨nofun, nofun⟩, ?_, ⟨by decide, by decide⟩, by decide, fun n => ⟨nofun, nofun⟩⟩
  · cases n
    · rfl
    · exact congrArg OpResult.outcome test_waiting_is_a_fixed_point
  · rintro n i - ⟨-, hd⟩ ⟨x, hx⟩
    have hw : some i = some (Instr.ldVxK 4) := by
      cases n <;> exact hd.symm.trans test_waiting_decodes
    cases hw
    rcases hx with hx | hx <;> cases hx

end Sys2Proof.Tests
end

-- The proofs of the encoding family (30_encoding.md).
section
/-! PROOFS. Encoding (30_encoding.md): which rows of the opcode map can accept the same word (R85). -/

namespace Sys2Proof

/-- The patterns of two rows differ in a bit that both masks keep. -/
def Descriptor.separated (d e : Descriptor) : Bool := d.pattern &&& e.mask != e.pattern &&& d.mask

theorem Descriptor.accepts_iff {d : Descriptor} {op : Word} : d.accepts op = true ↔ op &&& d.mask = d.pattern :=
  beq_iff_eq

/-- Both patterns, cut down to the common mask, would be the word under that mask. -/
theorem Descriptor.separated_not_both_accept {d e : Descriptor} (hsep : d.separated e = true) {op : Word}
    (hd : d.accepts op = true) (he : e.accepts op = true) : False := by
  rw [accepts_iff] at hd he
  have hcommon : d.pattern &&& e.mask = e.pattern &&& d.mask := by
    rw [← hd, ← he, BitVec.and_assoc, BitVec.and_assoc, BitVec.and_comm d.mask]
  exact bne_iff_ne.mp hsep hcommon

/-- A row that keeps every bit accepts its own pattern only. -/
theorem Descriptor.accepts_of_full_mask {d : Descriptor} (hmask : d.mask = 0xFFFF) {op : Word} :
    d.accepts op = true ↔ op = d.pattern := by
  have hfull : op &&& d.mask = op := by rw [hmask]; exact BitVec.and_allOnes
  rw [accepts_iff, hfull]

/-- Of rows separated two by two, at most one accepts a word. -/
theorem length_filter_accepts_le_one {rows : List Descriptor}
    (hsep : rows.Pairwise (fun d e => d.separated e = true)) (op : Word) :
    (rows.filter (fun d => d.accepts op)).length ≤ 1 := by
  induction hsep with
  | nil => simp
  | @cons d rest hd _ ih =>
    by_cases hop : d.accepts op = true
    · have hrest : rest.filter (fun e => e.accepts op) = [] :=
        List.filter_eq_nil_iff.mpr fun e he => Descriptor.separated_not_both_accept (hd e he) hop
      simp [hop, hrest]
    · simpa [hop] using ih

/-- Behind the first two rows, CLS and RET, no two rows share a word. -/
theorem opcodeMap_drop_two_separated : (opcodeMap.drop 2).Pairwise (fun d e => d.separated e = true) := by decide

/-- The rows CLS and RET are out of the way for every word but their own. -/
theorem filter_accepts_opcodeMap {op : Word} (hcls : op ≠ 0x00E0) (hret : op ≠ 0x00EE) :
    opcodeMap.filter (fun d => d.accepts op) = (opcodeMap.drop 2).filter (fun d => d.accepts op) := by
  have hclsRow : ¬ Descriptor.accepts ⟨0xFFFF, 0x00E0, fun _ => .cls⟩ op = true :=
    mt (Descriptor.accepts_of_full_mask rfl).mp hcls
  have hretRow : ¬ Descriptor.accepts ⟨0xFFFF, 0x00EE, fun _ => .ret⟩ op = true :=
    mt (Descriptor.accepts_of_full_mask rfl).mp hret
  calc opcodeMap.filter (fun d => d.accepts op)
      = (opcodeMap.drop 1).filter (fun d => d.accepts op) := List.filter_cons_of_neg hclsRow
    _ = (opcodeMap.drop 2).filter (fun d => d.accepts op) := List.filter_cons_of_neg hretRow

/-- Settles O4: the two overlaps are the evaluated rows of their words; for every other word the rows CLS and RET drop out,
and the rest of the map is separated two by two. -/
theorem onlyTheSystemCallRowOverlaps : Obligations.OnlyTheSystemCallRowOverlaps := by
  refine ⟨by decide, by decide, by decide, fun op hcls hret => ?_⟩
  rw [filter_accepts_opcodeMap hcls hret]
  exact length_filter_accepts_le_one opcodeMap_drop_two_separated op

end Sys2Proof
end

-- The proofs of the engine cycle family (40_engine_cycle.md).
section
/-! PROOFS. Engine cycle (40_engine_cycle.md): what a key write changes and leaves unchanged (R109). -/

namespace Sys2Proof.Machine

/-- A key write (R109): that latch and no other. -/
theorem State.pressed_keyWrite (s : State) (k : Fin 16) (b : Bool) (j : Fin 16) :
    (s.keyWrite k b).pressed j = if j = k then b else s.pressed j := by
  simp [State.pressed, Vector.getElem_set, Fin.ext_iff, eq_comm]

/-- The frame of a key write (R109): only the latches and the event list may differ. -/
theorem State.keyWrite_sameBut (s : State) (k : Fin 16) (b : Bool) : SameBut [.key, .events] s (s.keyWrite k b) := by
  intro p hp
  cases p with
  | key => exact absurd (by decide) hp
  | events => exact absurd (by decide) hp
  | mem => exact State.readByte_congr (State.keyWrite_fontRom s k b) (State.keyWrite_mem s k b)
  | _ => rfl

/-- Settles O20: the state left is `s.keyWrite k b`, by its law for one latch and its frame. -/
theorem keyWriteSetsOneLatch : Obligations.KeyWriteSetsOneLatch := fun s k b =>
  ⟨s.keyWrite k b, rfl, s.pressed_keyWrite k b, s.keyWrite_events k b, s.keyWrite_sameBut k b⟩

end Sys2Proof.Machine
end

-- The proofs of the control transfer family (41_control_transfer.md).
section
/-! PROOFS. Control transfer (41_control_transfer.md): which row of the opcode map decodes a word (R84), and what SYS, the
jumps, CALL, RET and the skips change and leave unchanged (R121 to R131). -/

namespace Sys2Proof

/-! ### The row that decodes a word -/

/-- Rows that do not accept the word are passed over, and the row behind them decodes it (R84). -/
theorem firstMatch_append_of_accepts {op : Word} {before after : List Descriptor} {d : Descriptor}
    (hbefore : ∀ e ∈ before, ¬ e.accepts op = true) (hd : d.accepts op = true) :
    firstMatch op (before ++ d :: after) = some (d.build (fieldsOf op)) := by
  induction before with
  | nil => exact if_pos hd
  | cons e rest ih =>
    obtain ⟨he, hrest⟩ := List.forall_mem_cons.mp hbefore
    exact (if_neg he).trans (ih hrest)

/-- The n-th row of the opcode map decodes a word that it accepts and no earlier row does. -/
theorem decode_eq_of_row {op : Word} {n : Nat} {d : Descriptor} (hrow : opcodeMap[n]? = some d)
    (hbefore : ∀ e ∈ opcodeMap.take n, ¬ e.accepts op = true) (hd : d.accepts op = true) :
    decode op = some (d.build (fieldsOf op)) := by
  obtain ⟨hn, hget⟩ := List.getElem?_eq_some_iff.mp hrow
  have hsplit : opcodeMap = opcodeMap.take n ++ d :: opcodeMap.drop (n + 1) := by
    rw [← hget, ← List.drop_eq_getElem_cons hn, List.take_append_drop]
  rw [decode, hsplit]
  exact firstMatch_append_of_accepts hbefore hd

namespace Machine

/-- A row separated from every earlier one decodes all the words of its pattern. -/
theorem decodesAs_of_row {mask pattern : Word} {build : Fields → Instr} (n : Nat)
    (hrow : opcodeMap[n]? = some ⟨mask, pattern, build⟩)
    (hsep : ∀ e ∈ opcodeMap.take n, e.separated ⟨mask, pattern, build⟩ = true) : DecodesAs mask pattern build := by
  intro op hop
  have hd : Descriptor.accepts ⟨mask, pattern, build⟩ op = true := Descriptor.accepts_iff.mpr hop
  exact decode_eq_of_row hrow (fun e he hacc => Descriptor.separated_not_both_accept (hsep e he) hacc hd) hd

/-! ### Frames of PC, the stack and the events -/

theorem State.setPc_sameBut (s : State) (w : Word) : SameBut [.pc] s (s.setPc w) := by
  intro p hp
  cases p with
  | pc => exact absurd (by decide) hp
  | mem => exact State.readByte_congr (State.setPc_fontRom s w) (State.setPc_mem s w)
  | _ => rfl

theorem State.emit_sameBut (s : State) (es : List OutEvent) : SameBut [.events] s (s.emit es) := by
  intro p hp
  cases p with
  | events => exact absurd (by decide) hp
  | mem => exact State.readByte_congr (State.emit_fontRom s es) (State.emit_mem s es)
  | _ => rfl

/-- What a step adds around an instruction that moves PC alone: the advance before it and the events after it. -/
theorem SameBut.emit_of_advancePc {s t : State} (h : SameBut [.pc] s.advancePc t) (es : List OutEvent) :
    SameBut [.pc, .events] s (t.emit es) :=
  have hpc : SameBut [.pc] s t := (s.setPc_sameBut (s.pc + 2)).trans h
  (hpc.mono (by simp)).trans ((t.emit_sameBut es).mono (by simp))

theorem State.push_sameBut {s t : State} {w : Word} (h : s.push w = some t) : SameBut [.sp, .stack] s t := by
  obtain ⟨-, rfl⟩ := State.push_eq_some.mp h
  intro p hp
  cases p with
  | sp => exact absurd (by decide) hp
  | stack => exact absurd (by decide) hp
  | mem => exact State.readByte_congr rfl rfl
  | _ => rfl

theorem State.push_sp {s t : State} {w : Word} (h : s.push w = some t) : t.sp.val = s.sp.val + 1 := by
  obtain ⟨-, rfl⟩ := State.push_eq_some.mp h
  rfl

/-- The slot at SP before the push, and no other (R26). -/
theorem State.push_stack {s t : State} {w : Word} (h : s.push w = some t) (j : Fin 16) :
    t.stack[j] = if j.val = s.sp.val then w else s.stack[j] := by
  obtain ⟨-, rfl⟩ := State.push_eq_some.mp h
  simp [Vector.getElem_set, eq_comm]

/-- Popping with `j + 1` addresses held: the word of slot `j`, and SP alone changed (R26, R27). -/
theorem State.pop_of_sp_eq_succ {s : State} {j : Fin 16} (h : s.sp.val = j.val + 1) :
    ∃ t, s.pop = some (s.stack[j], t) ∧ t.sp.val = j.val ∧ SameBut [.sp] s t := by
  have hdepth : j.castSucc = ⟨s.sp.val - 1, by omega⟩ := Fin.ext (by simp [h])
  refine ⟨{ s with sp := j.castSucc }, State.pop_eq_some.mpr ⟨by omega, ?_, ?_⟩, rfl, fun p hp => ?_⟩
  · simp [h]
  · rw [hdepth]
  · cases p with
    | sp => exact absurd (by decide) hp
    | mem => exact State.readByte_congr rfl rfl
    | _ => rfl

/-! ### Targets and addresses -/

@[simp] theorem toNat_target (nnn : Addr12) : (target nnn).toNat = nnn.toNat := by
  have := nnn.isLt
  rw [target, BitVec.toNat_setWidth]
  omega

/-- The indexed sum does not wrap (R129): 12 bits and 8 bits are below 16 bits. -/
theorem State.toNat_indexedTarget (s : State) (nnn : Addr12) :
    (s.indexedTarget nnn).toNat = nnn.toNat + (s.getV 0).toNat := by
  have hnnn := nnn.isLt
  have hv := (s.getV 0).isLt
  rw [State.indexedTarget, BitVec.toNat_add, toNat_target, BitVec.toNat_setWidth]
  omega

/-- During execute, the instruction's own address is PC before the advance (R103). -/
theorem State.instrAddress_advancePc (s : State) : s.advancePc.instrAddress = s.pc :=
  BitVec.add_sub_cancel s.pc 2

/-! ### The step on a fetched instruction -/

/-- The step on a state that fetches `i` is `i` executed behind the advance, then the end of the step (R101). -/
theorem State.fetches.perform_step {s : State} {i : Instr} (h : s.fetches i) :
    s.perform .step = finishStep s.advancePc (exec i s.advancePc) := by
  obtain ⟨hpc, hdec⟩ := h
  have hword : decode s.fetchWord = some i := (congrArg decode (wordOfBytes_eq _ _)).trans hdec
  rw [State.perform, State.engineStep, if_neg (Nat.not_lt.mpr hpc), hword]

theorem State.perform_step_of_pc_gt {s : State} (h : 4094 < s.pc.toNat) :
    s.perform .step = .fatal (.outOfBoundsFetch s.pc) (s.emit []) :=
  if_pos h

/-! ### Instructions -/

theorem exec_sys (nnn : Addr12) (s : State) : exec (.sys nnn) s = .fault (.unimplementedSys nnn s.instrAddress) := rfl

theorem exec_call_of_push_eq_none {s : State} (h : s.push s.pc = none) (nnn : Addr12) :
    exec (.call nnn) s = .fault (.stackOverflow s.instrAddress) := by
  rw [exec, execCall, h, raise]

theorem exec_ret_of_pop_eq_none {s : State} (h : s.pop = none) : exec .ret s = .fault (.stackUnderflow s.instrAddress) := by
  rw [exec, execRet, h, raise]

/-- An instruction that answers a skip on a Boolean test of its condition obeys the skip law. -/
theorem skips_of_exec_eq {i : Instr} {s : State} {b : Bool} {c : Prop} (hexec : exec i s = .next (s.skipIf b))
    (hb : b = true ↔ c) : Skips i c s := by
  rw [State.skipIf_eq] at hexec
  exact ⟨_, hexec, fun hc => if_pos (hb.mpr hc), fun hc => if_neg (mt hb.mp hc), s.setPc_sameBut _⟩

/-- A legal key index names one latch, and that latch decides a key skip (R191, R192). -/
theorem pressed_eq_iff_exists {s : State} {k : Fin 16} {m : Nat} (hk : k.val = m) (b : Bool) :
    s.pressed k = b ↔ ∃ j : Fin 16, j.val = m ∧ s.pressed j = b := by
  constructor
  · exact fun h => ⟨k, hk, h⟩
  · rintro ⟨j, hj, h⟩
    rwa [← Fin.ext (hj.trans hk.symm)]

/-- Each of the six skips obeys the skip law with its own condition (R125 to R128, R131, R191, R192). -/
theorem skips_of_skipCondition {s : State} {i : Instr} {c : Prop} (h : skipCondition s i = some c)
    (hkey : ∀ x, i = .skpVx x ∨ i = .sknpVx x → (s.getV x).toNat ≤ 15) : Skips i c s := by
  cases i with
  | seVxKk x kk => cases h; exact skips_of_exec_eq rfl beq_iff_eq
  | sneVxKk x kk => cases h; exact skips_of_exec_eq rfl bne_iff_ne
  | seVxVy x y => cases h; exact skips_of_exec_eq rfl beq_iff_eq
  | sneVxVy x y => cases h; exact skips_of_exec_eq rfl bne_iff_ne
  | skpVx x =>
    cases h
    have hx : (s.getV x).toNat < 16 := Nat.lt_succ_of_le (hkey x (.inl rfl))
    have hexec := (exec_eq_next (.skpVx x) s _).mpr ⟨⟨_, hx⟩, rfl, rfl⟩
    exact skips_of_exec_eq hexec (pressed_eq_iff_exists rfl true)
  | sknpVx x =>
    cases h
    have hx : (s.getV x).toNat < 16 := Nat.lt_succ_of_le (hkey x (.inr rfl))
    have hexec := (exec_eq_next (.sknpVx x) s _).mpr ⟨⟨_, hx⟩, rfl, rfl⟩
    exact skips_of_exec_eq hexec ((Bool.not_eq_true' _).to_iff.trans (pressed_eq_iff_exists rfl false))
  | _ => cases h

/-- The advance moves PC alone, so it leaves the conditions of the skips as they are. -/
theorem skipCondition_advancePc (s : State) (i : Instr) : skipCondition s.advancePc i = skipCondition s i := by
  cases i <;> rfl

/-! ### The obligations -/

/-- Settles O29: behind the rows CLS and RET the SYS row takes the rest of its space; its fault ends the step on the
advanced state. -/
theorem systemCallAlwaysRaisesCauseEight : Obligations.SystemCallAlwaysRaisesCauseEight := by
  refine ⟨fun op hop hcls hret => ?_, exec_sys, fun nnn s hf => ?_⟩
  · refine decode_eq_of_row (n := 2) rfl ?_ (Descriptor.accepts_iff.mpr hop)
    intro e he
    rcases List.mem_pair.mp he with rfl | rfl
    · exact mt (Descriptor.accepts_of_full_mask rfl).mp hcls
    · exact mt (Descriptor.accepts_of_full_mask rfl).mp hret
  · refine ⟨s.advancePc.emit [], ?_, rfl, rfl, (SameBut.refl _ _).emit_of_advancePc []⟩
    rw [hf.perform_step, exec_sys, State.instrAddress_advancePc, finishStep]

/-- Settles O30: both jumps set PC alone, to targets that do not wrap. -/
theorem jumpsLoadThePcAbsolutely : Obligations.JumpsLoadThePcAbsolutely :=
  ⟨decodesAs_of_row 3 rfl (by decide), decodesAs_of_row 21 rfl (by decide), fun nnn s =>
    ⟨⟨s.setPc (target nnn), rfl, toNat_target nnn, s.setPc_sameBut _⟩,
      s.setPc (s.indexedTarget nnn), rfl, s.toNat_indexedTarget nnn, s.setPc_sameBut _⟩⟩

/-- Settles O31: below 16 held addresses the push succeeds and the jump follows it; at 16 there is no push. -/
theorem callPushesTheReturnAddress : Obligations.CallPushesTheReturnAddress := by
  refine ⟨decodesAs_of_row 4 rfl (by decide), fun nnn s => ⟨fun hsp => ?_, fun hsp => ?_⟩⟩
  · obtain ⟨u, hpush⟩ : ∃ u, s.push s.pc = some u := ⟨_, State.push_eq_some.mpr ⟨hsp, rfl⟩⟩
    have hslots := State.push_stack hpush
    have hdepth := State.push_sp hpush
    have hframe : SameBut [.pc, .sp, .stack] s (u.setPc (target nnn)) :=
      ((State.push_sameBut hpush).mono (by simp)).trans ((u.setPc_sameBut _).mono (by simp))
    exact ⟨u.setPc (target nnn), (exec_eq_next _ _ _).mpr ⟨u, hpush, rfl⟩, hslots, hdepth, toNat_target nnn, hframe⟩
  · exact exec_call_of_push_eq_none (State.push_eq_none.mpr hsp) nnn

/-- Settles O32: with an address held the pop succeeds and its word goes to PC; with none there is no pop. -/
theorem returnPopsIntoThePc : Obligations.ReturnPopsIntoThePc := by
  refine ⟨decodesAs_of_row 1 rfl (by decide), fun s => ⟨fun j hsp => ?_, fun hsp => ?_⟩⟩
  · obtain ⟨u, hpop, hu, hsame⟩ := State.pop_of_sp_eq_succ hsp
    have hframe : SameBut [.pc, .sp] s (u.setPc s.stack[j]) :=
      (hsame.mono (by simp)).trans ((u.setPc_sameBut _).mono (by simp))
    exact ⟨u.setPc s.stack[j], (exec_eq_next _ _ _).mpr ⟨_, u, hpop, rfl⟩, rfl, hu, hframe⟩
  · exact exec_ret_of_pop_eq_none (State.pop_eq_none.mpr hsp)

/-- Settles O34: the skip law of each register skip, its condition said of the bytes as numbers. -/
theorem registerSkipsTestTheirCondition : Obligations.RegisterSkipsTestTheirCondition := by
  refine ⟨decodesAs_of_row 5 rfl (by decide), decodesAs_of_row 6 rfl (by decide), decodesAs_of_row 7 rfl (by decide),
    decodesAs_of_row 19 rfl (by decide), fun x kk s => ?_, fun x kk s => ?_, fun x y s => ?_, fun x y s => ?_⟩
  all_goals
    simp only [ne_eq, BitVec.toNat_inj]
    exact skips_of_skipCondition rfl nofun

/-- Settles O35: the skip law on the advanced state, with PC too low for the additions to wrap. -/
theorem skipsAdvanceByFourOrTwo : Obligations.SkipsAdvanceByFourOrTwo := by
  intro s i c hf hc hkey
  obtain ⟨u, hexec, htaken, hnot, hsame⟩ := skips_of_skipCondition ((skipCondition_advancePc s i).trans hc) hkey
  rw [State.advancePc_pc] at htaken hnot
  have hpc : s.pc.toNat ≤ 4094 := hf.1
  refine ⟨u.emit [.render], ?_, fun h => ?_, fun h => ?_, hsame.emit_of_advancePc _,
    fun h => ⟨_, State.perform_step_of_pc_gt h⟩⟩
  · rw [hf.perform_step, hexec, finishStep]
  · rw [State.emit_pc, htaken h]
    bv_omega
  · rw [State.emit_pc, hnot h]
    bv_omega

end Machine

end Sys2Proof
end

-- The proofs of the load and arithmetic family (42_load_alu.md).
section
/-! PROOFS. Register load, arithmetic, logic, shifts (42_load_alu.md): results and flags as numbers (R21, R152), what writing
a register, or a result and then the flag, changes and leaves unchanged (R22), and the instructions (R141 to R151). -/

namespace Sys2Proof.Machine

/-! ### Results and flags as numbers -/

@[simp] theorem toNat_sum8 (a b : Byte) : (sum8 a b).toNat = (a.toNat + b.toNat) % 256 :=
  BitVec.toNat_ofNat _ _

/-- The difference wraps once at most (R152): adding 256 first keeps it a natural number. -/
@[simp] theorem toNat_diff8 (a b : Byte) : (diff8 a b).toNat = (256 + a.toNat - b.toNat) % 256 := by
  have hb := b.isLt
  rw [diff8, BitVec.toNat_ofInt]
  omega

/-- A half needs no narrowing. -/
@[simp] theorem toNat_half8 (a : Byte) : (half8 a).toNat = a.toNat / 2 := by
  have ha := a.isLt
  rw [half8, BitVec.toNat_ofNat]
  omega

@[simp] theorem toNat_double8 (a : Byte) : (double8 a).toNat = a.toNat * 2 % 256 :=
  BitVec.toNat_ofNat _ _

theorem toNat_flagByte (b : Bool) : (flagByte b).toNat = b.toNat := by
  cases b <;> rfl

theorem toNat_flagByte_decide (p : Prop) [Decidable p] : (flagByte (decide p)).toNat = if p then 1 else 0 :=
  (toNat_flagByte _).trans (Bool.cond_decide p 1 0)

@[simp] theorem toNat_flagByte_carryOf (a b : Byte) :
    (flagByte (carryOf a b)).toNat = if 255 < a.toNat + b.toNat then 1 else 0 :=
  toNat_flagByte_decide _

@[simp] theorem toNat_flagByte_greaterThan (a b : Byte) :
    (flagByte (greaterThan a b)).toNat = if b.toNat < a.toNat then 1 else 0 :=
  toNat_flagByte_decide _

/-- The flag of a test of a bit is the bit. -/
theorem toNat_flagByte_beq_one {n : Nat} (hn : n < 2) : (flagByte (n == 1)).toNat = n := by
  interval_cases n <;> rfl

@[simp] theorem toNat_flagByte_lowBit (a : Byte) : (flagByte (lowBit a)).toNat = a.toNat % 2 :=
  toNat_flagByte_beq_one (Nat.mod_lt _ Nat.two_pos)

@[simp] theorem toNat_flagByte_highBit (a : Byte) : (flagByte (highBit a)).toNat = a.toNat / 128 :=
  toNat_flagByte_beq_one (Nat.div_lt_of_lt_mul a.isLt)

/-! ### Writing a register, and a result with its flag -/

theorem State.setV_sameBut (s : State) (x : Reg) (b : Byte) : SameBut [.v] s (s.setV x b) := by
  intro p hp
  cases p with
  | v => exact absurd (by decide) hp
  | mem => exact State.readByte_congr (State.setV_fontRom s x b) (State.setV_mem s x b)
  | _ => rfl

theorem State.setResultFlag_sameBut (s : State) (x : Reg) (b : Byte) (flag : Bool) :
    SameBut [.v] s (s.setResultFlag x b flag) :=
  (s.setV_sameBut x b).trans ((s.setV x b).setV_sameBut vf (flagByte flag))

theorem writesRegister_of_exec_eq {i : Instr} {s : State} {x : Reg} {b : Byte} {value : Nat}
    (hexec : exec i s = .next (s.setV x b)) (hb : b.toNat = value) : WritesRegister i x value s := by
  refine ⟨_, hexec, ?_, fun r hr => ?_, s.setV_sameBut x b⟩
  · rw [State.getV_setV, if_pos rfl, hb]
  · rw [State.getV_setV, if_neg hr]

/-- The flag is written last (R22): it stands in VF also when VF is the destination. -/
theorem writesRegisterAndFlag_of_exec_eq {i : Instr} {s : State} {x : Reg} {b : Byte} {c : Bool} {value flag : Nat}
    (hexec : exec i s = .next (s.setResultFlag x b c)) (hb : b.toNat = value) (hc : (flagByte c).toNat = flag) :
    WritesRegisterAndFlag i x value flag s := by
  refine ⟨_, hexec, ?_, fun hx => ?_, fun r hr hrf => ?_, s.setResultFlag_sameBut x b c⟩
  · rw [State.getV_setResultFlag, if_pos rfl, hc]
  · rw [State.getV_setResultFlag, if_neg hx, if_pos rfl, hb]
  · rw [State.getV_setResultFlag, if_neg hrf, if_neg hr]

/-! ### The obligations -/

/-- Settles O37: each writes the result and then the flag, both computed on the registers before. -/
theorem addAndSubtractWriteResultThenFlag : Obligations.AddAndSubtractWriteResultThenFlag :=
  ⟨decodesAs_of_row 14 rfl (by decide), decodesAs_of_row 15 rfl (by decide), decodesAs_of_row 17 rfl (by decide),
    fun _ _ _ =>
      ⟨writesRegisterAndFlag_of_exec_eq rfl (toNat_sum8 _ _) (toNat_flagByte_carryOf _ _),
        writesRegisterAndFlag_of_exec_eq rfl (toNat_diff8 _ _) (toNat_flagByte_greaterThan _ _),
        writesRegisterAndFlag_of_exec_eq rfl (toNat_diff8 _ _) (toNat_flagByte_greaterThan _ _)⟩⟩

/-- Settles O38: each writes the shifted V[x] and then the bit shifted out, neither read from V[y]. -/
theorem shiftsWorkInPlaceWithPreShiftFlag : Obligations.ShiftsWorkInPlaceWithPreShiftFlag :=
  ⟨decodesAs_of_row 16 rfl (by decide), decodesAs_of_row 18 rfl (by decide), fun _ _ _ =>
    ⟨writesRegisterAndFlag_of_exec_eq rfl (toNat_half8 _) (toNat_flagByte_lowBit _),
      writesRegisterAndFlag_of_exec_eq rfl (toNat_double8 _) (toNat_flagByte_highBit _)⟩⟩

/-- Settles O36: each writes V[x] and no flag. -/
theorem loadsAndLogicWriteTheDestinationOnly : Obligations.LoadsAndLogicWriteTheDestinationOnly :=
  ⟨decodesAs_of_row 8 rfl (by decide), decodesAs_of_row 9 rfl (by decide), decodesAs_of_row 10 rfl (by decide),
    decodesAs_of_row 11 rfl (by decide), decodesAs_of_row 12 rfl (by decide), decodesAs_of_row 13 rfl (by decide),
    fun _ _ _ => writesRegister_of_exec_eq rfl rfl,
    fun _ _ _ => writesRegister_of_exec_eq rfl (toNat_sum8 _ _),
    fun _ _ _ =>
      ⟨writesRegister_of_exec_eq rfl rfl,
        writesRegister_of_exec_eq rfl (BitVec.toNat_or _ _),
        writesRegister_of_exec_eq rfl (BitVec.toNat_and _ _),
        writesRegister_of_exec_eq rfl (BitVec.toNat_xor _ _)⟩⟩

end Sys2Proof.Machine
end

-- The proofs of the index and memory transfer family (43_index_memory.md).
section
/-! PROOFS. The index register and the memory transfers (43_index_memory.md): what writing I, a store from I and a load from I
change and leave unchanged (R165), the bounds check of a block (R60), and the instructions (R166 to R171). -/

namespace Sys2Proof.Machine

/-! ### Writing I -/

theorem State.setI_sameBut (s : State) (w : Word) : SameBut [.i] s (s.setI w) := by
  intro p hp
  cases p with
  | i => exact absurd (by decide) hp
  | mem => exact State.readByte_congr (State.setI_fontRom s w) (State.setI_mem s w)
  | _ => rfl

theorem writesIndex_of_exec_eq {i : Instr} {s : State} {w : Word} {value : Nat} (hexec : exec i s = .next (s.setI w))
    (hw : w.toNat = value) : WritesIndex i value s :=
  ⟨s.setI w, hexec, hw, s.setI_sameBut w⟩

@[simp] theorem State.toNat_indexPlus (s : State) (b : Byte) : (s.indexPlus b).toNat = (s.i.toNat + b.toNat) % 65536 :=
  BitVec.toNat_ofNat _ _

/-- The glyph address does not wrap (R168): 5 times a byte is below 65536. -/
@[simp] theorem toNat_glyphAddress (b : Byte) : (glyphAddress b).toNat = b.toNat * 5 := by
  have hb := b.isLt
  rw [glyphAddress, BitVec.toNat_ofNat, Config.glyphBytes]
  omega

/-! ### The bounds check of a block whose last byte is at I + n -/

theorem withDataRange_of_lt_ea {s : State} {n : Nat} (k : Result) (h : 4095 < s.ea n) :
    withDataRange s (n + 1) k = .fault (.dataAddressOutOfBounds (s.ea n) (s.pc - 2)) := by
  rw [State.ea_eq] at h
  rcases withDataRange_cases s (n + 1) k with ⟨hok, -⟩ | ⟨-, hfault⟩
  · omega
  · exact hfault

theorem withDataRange_of_ea_le {s : State} {n : Nat} (k : Result) (h : s.ea n ≤ 4095) : withDataRange s (n + 1) k = k :=
  withDataRange_ok k (.inl (Nat.succ_le_succ h))

/-! ### A store from I, the last byte at I + n -/

theorem State.storeBytes_sameBut (s : State) (a : Nat) (bs : List Byte) : SameBut [.mem] s (s.storeBytes a bs) := by
  intro p hp
  cases p with
  | mem => exact absurd (by decide) hp
  | _ => rfl

section
variable {s : State} {n : Nat} {bs : List Byte} (hwf : Memory.wf s.fontRom s.mem) (hlen : bs.length = n + 1)
  (hea : s.ea n ≤ 4095)
include hwf hlen hea

theorem State.readByte_storeBytes_ea {j : Nat} {b : Byte} (hj : bs[j]? = some b) :
    (s.storeBytes (s.ea 0) bs).readByte (s.ea j) = b :=
  State.readByte_storeBytes_at hwf (hlen ▸ Nat.succ_le_succ hea) hj

theorem State.toNat_readByte_storeBytes_ea {j d : Nat} (hj : (bs.map BitVec.toNat)[j]? = some d) :
    ((s.storeBytes (s.ea 0) bs).readByte (s.ea j)).toNat = d := by
  rw [List.getElem?_map] at hj
  obtain ⟨b, hb, rfl⟩ := Option.map_eq_some_iff.mp hj
  rw [State.readByte_storeBytes_ea hwf hlen hea hb]

theorem State.readByte_storeBytes_outside_ea (a : Nat) (ha : a < s.ea 0 ∨ s.ea n < a) :
    (s.storeBytes (s.ea 0) bs).readByte a = s.readByte a :=
  State.readByte_storeBytes_off hwf (hlen ▸ Nat.succ_le_succ hea) (hlen ▸ ha)

end

/-! ### The decimal digits -/

/-- Each digit fits its byte (R169). -/
theorem map_toNat_bcdDigits (b : Byte) :
    (bcdDigits b).map BitVec.toNat = [b.toNat / 100, b.toNat / 10 % 10, b.toNat % 10] := by
  have hb := b.isLt
  simp only [bcdDigits, List.map_cons, List.map_nil, BitVec.toNat_ofNat, List.cons.injEq, and_true]
  omega

/-! ### A load from I -/

theorem State.loadRegsUpTo_sameBut (s : State) (a : Nat) (x : Reg) : SameBut [.v] s (s.loadRegsUpTo a x) := by
  intro p hp
  cases p with
  | v => exact absurd (by decide) hp
  | mem => exact State.readByte_congr (s.loadRegsUpTo_fontRom a x) (s.loadRegsUpTo_mem a x)
  | _ => simp [Part.same]

/-! ### The obligations -/

/-- Settles O42: a store of three bytes, each of them a digit; the block ends at I + 2. -/
theorem bcdStoresThreeDigits : Obligations.BcdStoresThreeDigits := by
  refine ⟨decodesAs_of_row 32 rfl (by decide), fun x s => ⟨fun hwf hea => ?_, withDataRange_of_lt_ea _⟩⟩
  have hlen : (bcdDigits (s.getV x)).length = 2 + 1 := rfl
  have hdigit {j d : Nat} (h : [(s.getV x).toNat / 100, (s.getV x).toNat / 10 % 10, (s.getV x).toNat % 10][j]? = some d) :=
    State.toNat_readByte_storeBytes_ea hwf hlen hea ((congrArg (·[j]?) (map_toNat_bcdDigits _)).trans h)
  exact ⟨s.storeBytes (s.ea 0) (bcdDigits (s.getV x)), withDataRange_of_ea_le _ hea, hdigit (j := 0) rfl,
    hdigit (j := 1) rfl, hdigit (j := 2) rfl, State.readByte_storeBytes_outside_ea hwf hlen hea, s.storeBytes_sameBut _ _⟩

/-- Settles O43: a store of the x + 1 registers; the block ends at I + x. -/
theorem storeRegistersCopiesTheBlock : Obligations.StoreRegistersCopiesTheBlock := by
  refine ⟨decodesAs_of_row 33 rfl (by decide), fun x s => ⟨fun hwf hea => ?_, withDataRange_of_lt_ea _⟩⟩
  have hlen := s.regsUpTo_length x
  exact ⟨s.storeBytes (s.ea 0) (s.regsUpTo x), withDataRange_of_ea_le _ hea,
    fun j hj => State.readByte_storeBytes_ea hwf hlen hea (s.regsUpTo_getElem? hj),
    State.readByte_storeBytes_outside_ea hwf hlen hea, s.storeBytes_sameBut _ _⟩

/-- Settles O44: a load of the x + 1 registers, VF among them as data when x is 15; the block ends at I + x. -/
theorem loadRegistersCopiesTheBlock : Obligations.LoadRegistersCopiesTheBlock :=
  ⟨decodesAs_of_row 34 rfl (by decide), fun x s =>
    ⟨fun hea => ⟨s.loadRegsUpTo (s.ea 0) x, withDataRange_of_ea_le _ hea, s.getV_loadRegsUpTo (s.ea 0) x,
      s.loadRegsUpTo_sameBut _ x⟩, withDataRange_of_lt_ea _⟩⟩

/-- Settles O41: each writes I alone, and only the sum of ADD I is reduced modulo 65536. -/
theorem indexInstructionsWriteOnlyTheIndex : Obligations.IndexInstructionsWriteOnlyTheIndex :=
  ⟨decodesAs_of_row 20 rfl (by decide), decodesAs_of_row 30 rfl (by decide), decodesAs_of_row 31 rfl (by decide),
    fun nnn _ => writesIndex_of_exec_eq rfl (toNat_target nnn), fun _ s =>
      ⟨writesIndex_of_exec_eq rfl (s.toNat_indexPlus _), writesIndex_of_exec_eq rfl (toNat_glyphAddress _)⟩⟩

end Sys2Proof.Machine
end

-- The proofs of the display family (44_display.md).
section
/-! PROOFS. The display (44_display.md): the cells of the cleared display, what writing the display leaves unchanged, and CLS
(R181). -/

namespace Sys2Proof.Machine

@[simp] theorem Display.cell_zero (c : Nat) : Display.cell 0 c = false :=
  BitVec.getLsbD_zero

theorem State.setDisp_sameBut (s : State) (d : Display) : SameBut [.disp] s (s.setDisp d) := by
  intro p hp
  cases p with
  | disp => exact absurd (by decide) hp
  | mem => exact State.readByte_congr (State.setDisp_fontRom s d) (State.setDisp_mem s d)
  | _ => rfl

/-- Settles O47: CLS writes the zero display and nothing else. -/
theorem clearScreenZeroesTheDisplay : Obligations.ClearScreenZeroesTheDisplay :=
  ⟨decodesAs_of_row 0 rfl (by decide), fun s =>
    ⟨s.setDisp 0, (exec_eq_next .cls s _).mpr rfl, Display.cell_zero, s.setDisp_sameBut 0⟩⟩

end Sys2Proof.Machine
end

-- The proofs of the keypad and timer family (45_keypad_timers.md).
section
/-! PROOFS. The keypad and timers (45_keypad_timers.md): what writing a timer leaves unchanged, the key skips on a
legal and on an illegal key index (R191, R192), the two ends of the key wait (R193), and the timer transfers (R194 to R196). -/

namespace Sys2Proof.Machine

/-! ### Writing a timer -/

theorem State.setDt_sameBut (s : State) (b : Byte) : SameBut [.dt] s (s.setDt b) := by
  intro p hp
  cases p with
  | dt => exact absurd (by decide) hp
  | mem => exact State.readByte_congr (State.setDt_fontRom s b) (State.setDt_mem s b)
  | _ => rfl

theorem State.setSt_sameBut (s : State) (b : Byte) : SameBut [.st] s (s.setSt b) := by
  intro p hp
  cases p with
  | st => exact absurd (by decide) hp
  | mem => exact State.readByte_congr (State.setSt_fontRom s b) (State.setSt_mem s b)
  | _ => rfl

/-! ### The key skips -/

theorem skips_skpVx {s : State} {x : Reg} {k : Fin 16} (hk : k.val = (s.getV x).toNat) :
    Skips (.skpVx x) (s.pressed k = true) s :=
  skips_of_exec_eq ((exec_eq_next (.skpVx x) s _).mpr ⟨k, hk, rfl⟩) Iff.rfl

theorem skips_sknpVx {s : State} {x : Reg} {k : Fin 16} (hk : k.val = (s.getV x).toNat) :
    Skips (.sknpVx x) (s.pressed k = false) s :=
  skips_of_exec_eq ((exec_eq_next (.sknpVx x) s _).mpr ⟨k, hk, rfl⟩) (Bool.not_eq_true' _).to_iff

theorem exec_skpVx_of_index_gt {s : State} {x : Reg} (hx : 15 < (s.getV x).toNat) :
    exec (.skpVx x) s = .fault (.keyIndexOutOfRange (s.getV x) (s.pc - 2)) :=
  withKeyIndex_fault (fun k => .next (s.skipIf (s.pressed k))) hx

theorem exec_sknpVx_of_index_gt {s : State} {x : Reg} (hx : 15 < (s.getV x).toNat) :
    exec (.sknpVx x) s = .fault (.keyIndexOutOfRange (s.getV x) (s.pc - 2)) :=
  withKeyIndex_fault (fun k => .next (s.skipIf (!s.pressed k))) hx

/-! ### The key wait -/

/-- A key index fits a byte. -/
theorem toNat_keyByte (k : Fin 16) : (BitVec.ofNat 8 k.val).toNat = k.val := by
  rw [BitVec.toNat_ofNat]
  omega

theorem exec_ldVxK_of_leastPressed {s : State} {k : Fin 16} (h : s.leastPressed = some k) (x : Reg) :
    exec (.ldVxK x) s = .next (s.setV x (BitVec.ofNat 8 k.val)) :=
  (exec_eq_next (.ldVxK x) s _).mpr (.inl ⟨k, h, rfl⟩)

theorem exec_ldVxK_of_no_key {s : State} (h : s.leastPressed = none) (x : Reg) :
    exec (.ldVxK x) s = .next s.rewindPc :=
  (exec_eq_next (.ldVxK x) s _).mpr (.inr ⟨h, rfl⟩)

/-! ### The obligations -/

/-- Settles O51: the least pressed key is what the search of the latches finds, and writing it writes one register; when the
search finds none, the rewind moves PC alone. -/
theorem keyWaitTakesTheLeastPressedKey : Obligations.KeyWaitTakesTheLeastPressedKey := by
  refine ⟨decodesAs_of_row 27 rfl (by decide), fun x s => ⟨fun k hk hleast => ?_, fun hnone => ?_⟩⟩
  · have hfound : s.leastPressed = some k := State.leastPressed_eq_some.mpr ⟨hk, hleast⟩
    exact writesRegister_of_exec_eq (exec_ldVxK_of_leastPressed hfound x) (toNat_keyByte k)
  · have hnotFound : s.leastPressed = none := State.leastPressed_eq_none.mpr hnone
    exact ⟨s.rewindPc, exec_ldVxK_of_no_key hnotFound x, s.rewindPc_pc, s.setPc_sameBut (s.pc - 2)⟩

/-- Settles O50: a legal index names one latch, whose skip law holds; above 15 the index check answers the fault. -/
theorem keySkipsTestTheNamedLatch : Obligations.KeySkipsTestTheNamedLatch :=
  ⟨decodesAs_of_row 24 rfl (by decide), decodesAs_of_row 25 rfl (by decide), fun _ _ =>
    ⟨fun _ hk => ⟨skips_skpVx hk, skips_sknpVx hk⟩, fun hx => ⟨exec_skpVx_of_index_gt hx, exec_sknpVx_of_index_gt hx⟩⟩⟩

/-- Settles O52: each writes one register or one timer, and no frame among them lists SOUND. -/
theorem timerTransfersCopyTheRegister : Obligations.TimerTransfersCopyTheRegister :=
  ⟨decodesAs_of_row 26 rfl (by decide), decodesAs_of_row 28 rfl (by decide), decodesAs_of_row 29 rfl (by decide),
    fun x s =>
      ⟨writesRegister_of_exec_eq rfl rfl,
        ⟨s.setDt (s.getV x), rfl, s.setDt_dt _, s.setDt_sameBut _⟩,
        ⟨s.setSt (s.getV x), rfl, s.setSt_st _, s.setSt_sameBut _⟩⟩⟩

end Sys2Proof.Machine
end

-- The proofs of the exceptions family (60_exceptions.md).
section
/-! PROOFS. Exceptions (60_exceptions.md): what a tick does to the two timers, to SOUND and to the rest of the state (R215). -/

namespace Sys2Proof.Machine

/-- The decrement is the clamped subtraction of the natural numbers (R28); it does not wrap at zero. -/
@[simp] theorem toNat_countDown (b : Byte) : (countDown b).toNat = b.toNat - 1 := by
  have hb := b.isLt
  by_cases hpos : 0 < b.toNat
  · rw [countDown, if_pos hpos, BitVec.toNat_ofNat]
    omega
  · rw [countDown, if_neg hpos]
    omega

/-- SOUND after a tick is read off ST as just decremented, not off ST before it (R215). -/
theorem State.tick_sound_eq_true (s : State) : s.tick.sound = true ↔ s.tick.st ≠ 0 := by
  rw [State.tick_sound, State.tick_st, bne_iff_ne]

/-- The frame of a tick (R215): only the timers, SOUND and the event list may differ. -/
theorem State.tick_sameBut (s : State) : SameBut [.dt, .st, .sound, .events] s s.tick := by
  intro p hp
  cases p with
  | dt => exact absurd (by decide) hp
  | st => exact absurd (by decide) hp
  | sound => exact absurd (by decide) hp
  | events => exact absurd (by decide) hp
  | mem => exact State.readByte_congr s.tick_fontRom s.tick_mem
  | _ => rfl

/-- Settles O17: the state left is `s.tick`, by the law of the decrement for each timer and by the frame of a tick. -/
theorem tickDecrementsBothTimersAndReports : Obligations.TickDecrementsBothTimersAndReports := fun s =>
  ⟨s.tick, rfl, toNat_countDown s.dt, toNat_countDown s.st, s.tick_sound_eq_true, s.tick_events, s.tick_sameBut⟩

end Sys2Proof.Machine
end

-- The proofs of the reset and hazards family (70_reset_and_hazards.md).
section
/-! PROOFS. Reset and load (70_reset_and_hazards.md): what `reset` leaves (R230, R232), where `loadProgram` puts the image
(R231), and what the step after a reset fetches (R230). -/

namespace Sys2Proof.Machine

/-! ### The reset state -/

@[simp] theorem State.readByte_resetWith (font : Vector Byte 80) (a : Nat) :
    (State.resetWith font).readByte a = Memory.background font a := rfl

theorem State.resetWith_isResetState (font : Vector Byte 80) : IsResetState font [] (State.resetWith font) where
  registers r := Vector.getElem_replicate r.isLt
  index := rfl
  pc := rfl
  sp := rfl
  stack j := Vector.getElem_replicate j.isLt
  timers := ⟨rfl, rfl⟩
  display := Display.cell_zero
  keys k := Vector.getElem_replicate k.isLt
  sound := rfl
  font a ha := by rw [State.readByte_resetWith, Memory.background, dif_pos ha]
  rest a ha := by simp [Memory.background, Nat.not_lt.mpr ha]

/-- The model's own fields, which stand for the world outside the block, have no part in being the reset state. -/
theorem IsResetState.of_sameBut {font : Vector Byte 80} {image : List Byte} {s t : State} (h : IsResetState font image s)
    (hst : SameBut [.fontRom, .draws, .schedule, .events] s t) : IsResetState font image t where
  registers r := (congrArg (·[r]) (hst .v (by decide))).trans (h.registers r)
  index := (hst .i (by decide)).trans h.index
  pc := (hst .pc (by decide)).trans h.pc
  sp := (congrArg Fin.val (hst .sp (by decide))).trans h.sp
  stack j := (congrArg (·[j]) (hst .stack (by decide))).trans (h.stack j)
  timers := ⟨(hst .dt (by decide)).trans h.timers.1, (hst .st (by decide)).trans h.timers.2⟩
  display c := (congrArg (Display.cell · c) (hst .disp (by decide))).trans (h.display c)
  keys k := (congrArg (·[k]) (hst .key (by decide))).trans (h.keys k)
  sound := (hst .sound (by decide)).trans h.sound
  font a ha := (hst .mem (by decide) a).trans (h.font a ha)
  rest a ha := (hst .mem (by decide) a).trans (h.rest a ha)

/-! ### `reset` -/

theorem State.resetOp_sameBut (s : State) : SameBut [.draws, .schedule] (State.resetWith s.fontRom) s.resetOp := by
  intro p hp
  cases p with
  | draws => exact absurd (by decide) hp
  | schedule => exact absurd (by decide) hp
  | mem => exact State.readByte_congr rfl rfl
  | _ => rfl

theorem State.resetOp_isResetState (s : State) : IsResetState s.fontRom [] s.resetOp :=
  (State.resetWith_isResetState s.fontRom).of_sameBut (s.resetOp_sameBut.mono (by simp))

/-- No program is left (R230): the two bytes at 0x200 are zero, and 0x0000 is SYS 0. -/
theorem IsResetState.fetches_sys {font : Vector Byte 80} {s : State} (h : IsResetState font [] s) :
    s.fetches (.sys 0) := by
  have hpc : s.pc.toNat = 512 := congrArg BitVec.toNat h.pc
  have hhigh : s.readByte 512 = 0 := h.rest 512 (by decide)
  have hlow : s.readByte 513 = 0 := h.rest 513 (by decide)
  rw [State.fetches, hpc, hhigh, hlow]
  decide

/-! ### `loadProgram` -/

/-- The image stored at 512 (R231): it fits below 4096, so byte j stands at 512 + j, and the font and every other part stay. -/
theorem IsResetState.storeBytes {font : Vector Byte 80} {s : State} (h : IsResetState font [] s)
    (hwf : Memory.wf s.fontRom s.mem) {image : List Byte} (hlen : image.length ≤ 3584) :
    IsResetState font image (s.storeBytes 512 image) :=
  have hfit : 512 + image.length ≤ 4096 := Nat.add_le_add_left hlen 512
  { h with
    font := fun a ha => by rw [State.readByte_storeBytes_off hwf hfit (.inl (by omega)), h.font a ha]
    rest := fun a ha => by
      have hzero : s.readByte a = 0 := by simpa using h.rest a ha
      rw [State.readByte_storeBytes hwf 512 image hfit, hzero] }

theorem State.loadProgram_of_length_le {bytes : List Byte} (h : bytes.length ≤ 3584) (s : State) :
    s.loadProgram bytes = .ok (s.resetOp.storeBytes 512 bytes) := if_pos h

theorem State.loadProgram_of_lt_length {bytes : List Byte} (h : 3584 < bytes.length) (s : State) :
    s.loadProgram bytes = .fatal (.loadOverflow bytes.length) s.resetOp := if_neg (Nat.not_le.mpr h)

/-! ### The obligations -/

/-- Settles O16: `reset` leaves a memory that lists nothing, hence canonical, and the image is stored into that; a longer
image leaves what `reset` leaves. -/
theorem loadProgramResetsThenCopiesTheImage : Obligations.LoadProgramResetsThenCopiesTheImage := fun s _ =>
  ⟨fun hle => ⟨_, s.loadProgram_of_length_le hle, s.resetOp_isResetState.storeBytes (Memory.nil_wf _) hle, rfl⟩,
    fun hlt => ⟨s.resetOp, s.loadProgram_of_lt_length hlt, s.resetOp_isResetState⟩⟩

/-- Settles O14: the power-on state is `State.resetWith` of the default font, and `reset` leaves that state of the font in
place but for the model's own fields. -/
theorem powerOnAndResetGiveTheResetState : Obligations.PowerOnAndResetGiveTheResetState :=
  ⟨State.resetWith_isResetState _, State.resetWith_isResetState, fun s => ⟨s.resetOp, rfl, s.resetOp_isResetState⟩⟩

/-- Settles O15: the step after `reset` is SYS 0 at 0x200, and SYS raises cause 8 with its own address. -/
theorem resetClearsAllStateAndTheProgram : Obligations.ResetClearsAllStateAndTheProgram := by
  intro s
  have hreset := s.resetOp_isResetState
  have hstep : s.resetOp.perform .step = .fatal (.unimplementedSys 0 0x200) (s.resetOp.advancePc.emit []) := by
    rw [hreset.fetches_sys.perform_step, exec_sys, State.instrAddress_advancePc, hreset.pc, finishStep]
  exact ⟨s.resetOp, _, rfl, hreset, rfl, hstep⟩

end Sys2Proof.Machine
end

-- The proofs of the remaining statements about encoding (30_encoding.md).
section
/-! PROOFS. Encoding (30_encoding.md): a word written out format by format (R82) is decoded by its own row, an accepted word is
written out again from its operand fields, and what a row accepts is a condition on the digits of the word (R81 to R87). -/

namespace Sys2Proof

open Machine

/-! ### From an instruction to its word and back -/

section
variable (n : Nat) {h : BitVec 4}

/-- Format NNN. -/
theorem decode_nnn {build : Addr12 → Instr} (hrow : opcodeMap[n]? = some ⟨0xF000, h ++ 0#12, fun f => build f.nnn⟩)
    (hsep : ∀ e ∈ opcodeMap.take n, e.separated ⟨0xF000, h ++ 0#12, fun f => build f.nnn⟩ = true) (nnn : Addr12) :
    decode (h ++ nnn) = some (build nnn) :=
  (decodesAs_of_row n hrow hsep _ (and_major_nnn h nnn)).trans (congrArg (some <| build ·) (fieldsOf_nnn h nnn))

/-- Format XKK. -/
theorem decode_xkk {build : Reg → Byte → Instr}
    (hrow : opcodeMap[n]? = some ⟨0xF000, h ++ 0#4 ++ 0#8, fun f => build f.x f.kk⟩)
    (hsep : ∀ e ∈ opcodeMap.take n, e.separated ⟨0xF000, h ++ 0#4 ++ 0#8, fun f => build f.x f.kk⟩ = true)
    (x : Reg) (kk : Byte) : decode (h ++ BitVec.ofFin (w := 4) x ++ kk) = some (build x kk) := by
  obtain ⟨hx, hkk⟩ := fieldsOf_xkk h x kk
  exact (decodesAs_of_row n hrow hsep _ (and_major_xkk h _ kk)).trans (congrArg some (congrArg₂ build hx hkk))

/-- Format XYN. -/
theorem decode_xyn {build : Reg → Reg → Nibble → Instr}
    (hrow : opcodeMap[n]? = some ⟨0xF000, h ++ 0#4 ++ 0#4 ++ 0#4, fun f => build f.x f.y f.n⟩)
    (hsep : ∀ e ∈ opcodeMap.take n, e.separated ⟨0xF000, h ++ 0#4 ++ 0#4 ++ 0#4, fun f => build f.x f.y f.n⟩ = true)
    (x y : Reg) (k : Nibble) :
    decode (h ++ BitVec.ofFin (w := 4) x ++ BitVec.ofFin (w := 4) y ++ k) = some (build x y k) := by
  obtain ⟨hx, hy, hk⟩ := fieldsOf_xyn h x y k
  refine (decodesAs_of_row n hrow hsep _ (and_major_xyn h _ _ k)).trans (congrArg some ?_)
  rw [hx, hy, hk]

/-- Format XY, the last nibble fixed. -/
theorem decode_xy {m : BitVec 4} {build : Reg → Reg → Instr}
    (hrow : opcodeMap[n]? = some ⟨0xF00F, h ++ 0#4 ++ 0#4 ++ m, fun f => build f.x f.y⟩)
    (hsep : ∀ e ∈ opcodeMap.take n, e.separated ⟨0xF00F, h ++ 0#4 ++ 0#4 ++ m, fun f => build f.x f.y⟩ = true)
    (x y : Reg) : decode (h ++ BitVec.ofFin (w := 4) x ++ BitVec.ofFin (w := 4) y ++ m) = some (build x y) := by
  obtain ⟨hx, hy, -⟩ := fieldsOf_xyn h x y m
  exact (decodesAs_of_row n hrow hsep _ (and_minor_nibble h _ _ m)).trans (congrArg some (congrArg₂ build hx hy))

/-- Format X, the last byte fixed. -/
theorem decode_x {m : Byte} {build : Reg → Instr}
    (hrow : opcodeMap[n]? = some ⟨0xF0FF, h ++ 0#4 ++ m, fun f => build f.x⟩)
    (hsep : ∀ e ∈ opcodeMap.take n, e.separated ⟨0xF0FF, h ++ 0#4 ++ m, fun f => build f.x⟩ = true) (x : Reg) :
    decode (h ++ BitVec.ofFin (w := 4) x ++ m) = some (build x) :=
  (decodesAs_of_row n hrow hsep _ (and_minor_byte h _ m)).trans (congrArg (some <| build ·) (fieldsOf_xkk h x m).1)

end

/-- SYS comes third (R85): its words but those of CLS and RET. -/
theorem decode_sys {nnn : Addr12} (hcls : nnn ≠ 0x0E0) (hret : nnn ≠ 0x0EE) : decode (0x0#4 ++ nnn) = some (.sys nnn) := by
  have hlow {a b : Addr12} (hab : (0x0#4 ++ a : Word) = 0x0#4 ++ b) : a = b := by
    rw [← extract_low 0x0#4 a, hab, extract_low]
  rw [systemCallAlwaysRaisesCauseEight.1 (0x0#4 ++ nnn) (and_major_nnn 0x0#4 nnn) (fun e => hcls (hlow e))
    (fun e => hret (hlow e)), fieldsOf_nnn]

/-- Each instruction's word is decoded by the instruction's own row. -/
theorem decode_encode {i : Instr} (hwf : i.wf = true) : decode (encode i) = some i := by
  cases i with
  | cls => rfl
  | ret => rfl
  | sys nnn =>
    obtain ⟨hcls, hret⟩ : nnn ≠ 0x0E0 ∧ nnn ≠ 0x0EE := by simpa [Instr.wf] using hwf
    exact decode_sys hcls hret
  | jp nnn => exact decode_nnn 3 rfl (by decide) nnn
  | call nnn => exact decode_nnn 4 rfl (by decide) nnn
  | seVxKk x kk => exact decode_xkk 5 rfl (by decide) x kk
  | sneVxKk x kk => exact decode_xkk 6 rfl (by decide) x kk
  | seVxVy x y => exact decode_xy 7 rfl (by decide) x y
  | ldVxKk x kk => exact decode_xkk 8 rfl (by decide) x kk
  | addVxKk x kk => exact decode_xkk 9 rfl (by decide) x kk
  | ldVxVy x y => exact decode_xy 10 rfl (by decide) x y
  | orVxVy x y => exact decode_xy 11 rfl (by decide) x y
  | andVxVy x y => exact decode_xy 12 rfl (by decide) x y
  | xorVxVy x y => exact decode_xy 13 rfl (by decide) x y
  | addVxVy x y => exact decode_xy 14 rfl (by decide) x y
  | subVxVy x y => exact decode_xy 15 rfl (by decide) x y
  | shrVxVy x y => exact decode_xy 16 rfl (by decide) x y
  | subnVxVy x y => exact decode_xy 17 rfl (by decide) x y
  | shlVxVy x y => exact decode_xy 18 rfl (by decide) x y
  | sneVxVy x y => exact decode_xy 19 rfl (by decide) x y
  | ldINnn nnn => exact decode_nnn 20 rfl (by decide) nnn
  | jpV0Nnn nnn => exact decode_nnn 21 rfl (by decide) nnn
  | rndVxKk x kk => exact decode_xkk 22 rfl (by decide) x kk
  | drwVxVyN x y k => exact decode_xyn 23 rfl (by decide) x y k
  | skpVx x => exact decode_x 24 rfl (by decide) x
  | sknpVx x => exact decode_x 25 rfl (by decide) x
  | ldVxDt x => exact decode_x 26 rfl (by decide) x
  | ldVxK x => exact decode_x 27 rfl (by decide) x
  | ldDtVx x => exact decode_x 28 rfl (by decide) x
  | ldStVx x => exact decode_x 29 rfl (by decide) x
  | addIVx x => exact decode_x 30 rfl (by decide) x
  | ldFVx x => exact decode_x 31 rfl (by decide) x
  | ldBVx x => exact decode_x 32 rfl (by decide) x
  | ldMemIVx x => exact decode_x 33 rfl (by decide) x
  | ldVxMemI x => exact decode_x 34 rfl (by decide) x

/-- The two bytes of a word, the high one first, make the word again (R56). -/
theorem wordOfBytes_bytesOfWord (op : Word) : wordOfBytes (op.extractLsb' 8 8) (op.extractLsb' 0 8) = op := by
  rw [wordOfBytes, BitVec.extractLsb'_append_extractLsb'_eq_extractLsb' (by decide)]
  exact BitVec.extractLsb'_eq_self

theorem decodeBytes_bytesOfWord {op : Word} {i : Instr} (h : decode op = some i) (rest : List Byte) :
    decodeBytes (bytesOfWord op ++ rest) = .ok (i, rest) := by
  simp only [bytesOfWord, List.cons_append, List.nil_append, decodeBytes, wordOfBytes_bytesOfWord, h]

/-- Settles O2: each instruction's word is accepted by its own row first and its fields are the operands; the two bytes in
memory order make the same word. -/
theorem encodedInstructionsDecodeBack : Obligations.EncodedInstructionsDecodeBack := fun _ hwf =>
  ⟨decode_encode hwf, decodeBytes_bytesOfWord (decode_encode hwf)⟩

/-! ### From a word to its instruction and back -/

/-- A range of bits that the mask keeps is read off the masked word. -/
theorem extractLsb'_of_and_eq {op mask pattern : Word} (h : op &&& mask = pattern) {start len : Nat}
    (hmask : mask.extractLsb' start len = BitVec.allOnes len) :
    op.extractLsb' start len = pattern.extractLsb' start len := by
  rw [← h, BitVec.extractLsb'_and, hmask, BitVec.and_allOnes]

/-- A word is its major nibble and its low 12 bits (R81). -/
theorem eq_major_append_nnn (op : Word) : op = op.extractLsb' 12 4 ++ (fieldsOf op).nnn := by
  rw [fieldsOf, BitVec.extractLsb'_append_extractLsb'_eq_extractLsb' (by decide), BitVec.extractLsb'_eq_self]

/-- A word is its major nibble, `x` and its low byte (R81). -/
theorem eq_major_append_xkk (op : Word) :
    op = op.extractLsb' 12 4 ++ BitVec.ofFin (w := 4) (fieldsOf op).x ++ (fieldsOf op).kk := by
  rw [fieldsOf, BitVec.ofFin_toFin, BitVec.extractLsb'_append_extractLsb'_eq_extractLsb' (by decide),
    BitVec.extractLsb'_append_extractLsb'_eq_extractLsb' (by decide)]
  exact BitVec.extractLsb'_eq_self.symm

/-- A word is its four nibbles (R81). -/
theorem eq_major_append_xyn (op : Word) :
    op = op.extractLsb' 12 4 ++ BitVec.ofFin (w := 4) (fieldsOf op).x ++ BitVec.ofFin (w := 4) (fieldsOf op).y ++
      (fieldsOf op).n := by
  rw [fieldsOf, BitVec.ofFin_toFin, BitVec.ofFin_toFin, BitVec.extractLsb'_append_extractLsb'_eq_extractLsb' (by decide),
    BitVec.extractLsb'_append_extractLsb'_eq_extractLsb' (by decide),
    BitVec.extractLsb'_append_extractLsb'_eq_extractLsb' (by decide)]
  exact BitVec.extractLsb'_eq_self.symm

/-- What the row makes of a word that it accepts encodes to that word. -/
def Descriptor.EncodesBack (d : Descriptor) : Prop := ∀ op, d.accepts op = true → encode (d.build (fieldsOf op)) = op

section
variable {pattern : Word}

/-- A row that keeps every bit. -/
theorem encodesBack_fixed {i : Instr} (hi : encode i = pattern) : Descriptor.EncodesBack ⟨0xFFFF, pattern, fun _ => i⟩ :=
  fun _ hop => hi.trans ((Descriptor.accepts_of_full_mask rfl).mp hop).symm

/-- Format NNN. -/
theorem encodesBack_nnn {build : Addr12 → Instr} (hb : ∀ nnn, encode (build nnn) = pattern.extractLsb' 12 4 ++ nnn) :
    Descriptor.EncodesBack ⟨0xF000, pattern, fun f => build f.nnn⟩ := by
  intro op hop
  replace hop : op &&& 0xF000 = pattern := Descriptor.accepts_iff.mp hop
  conv_rhs => rw [eq_major_append_nnn op, extractLsb'_of_and_eq hop (by decide)]
  exact hb _

/-- Format XKK. -/
theorem encodesBack_xkk {build : Reg → Byte → Instr}
    (hb : ∀ x kk, encode (build x kk) = pattern.extractLsb' 12 4 ++ BitVec.ofFin (w := 4) x ++ kk) :
    Descriptor.EncodesBack ⟨0xF000, pattern, fun f => build f.x f.kk⟩ := by
  intro op hop
  replace hop : op &&& 0xF000 = pattern := Descriptor.accepts_iff.mp hop
  conv_rhs => rw [eq_major_append_xkk op, extractLsb'_of_and_eq hop (by decide)]
  exact hb _ _

/-- Format XYN. -/
theorem encodesBack_xyn {build : Reg → Reg → Nibble → Instr}
    (hb : ∀ x y n, encode (build x y n) =
      pattern.extractLsb' 12 4 ++ BitVec.ofFin (w := 4) x ++ BitVec.ofFin (w := 4) y ++ n) :
    Descriptor.EncodesBack ⟨0xF000, pattern, fun f => build f.x f.y f.n⟩ := by
  intro op hop
  replace hop : op &&& 0xF000 = pattern := Descriptor.accepts_iff.mp hop
  conv_rhs => rw [eq_major_append_xyn op, extractLsb'_of_and_eq hop (by decide)]
  exact hb _ _ _

/-- Format XY, the last nibble fixed. -/
theorem encodesBack_xy {build : Reg → Reg → Instr}
    (hb : ∀ x y, encode (build x y) =
      pattern.extractLsb' 12 4 ++ BitVec.ofFin (w := 4) x ++ BitVec.ofFin (w := 4) y ++ pattern.extractLsb' 0 4) :
    Descriptor.EncodesBack ⟨0xF00F, pattern, fun f => build f.x f.y⟩ := by
  intro op hop
  replace hop : op &&& 0xF00F = pattern := Descriptor.accepts_iff.mp hop
  have hn : (fieldsOf op).n = pattern.extractLsb' 0 4 := extractLsb'_of_and_eq hop (by decide)
  conv_rhs => rw [eq_major_append_xyn op, extractLsb'_of_and_eq hop (by decide), hn]
  exact hb _ _

/-- Format X, the last byte fixed. -/
theorem encodesBack_x {build : Reg → Instr}
    (hb : ∀ x, encode (build x) = pattern.extractLsb' 12 4 ++ BitVec.ofFin (w := 4) x ++ pattern.extractLsb' 0 8) :
    Descriptor.EncodesBack ⟨0xF0FF, pattern, fun f => build f.x⟩ := by
  intro op hop
  replace hop : op &&& 0xF0FF = pattern := Descriptor.accepts_iff.mp hop
  have hkk : (fieldsOf op).kk = pattern.extractLsb' 0 8 := extractLsb'_of_and_eq hop (by decide)
  conv_rhs => rw [eq_major_append_xkk op, extractLsb'_of_and_eq hop (by decide), hkk]
  exact hb _

end

/-- A decoded word was accepted by a row, which made the instruction of its fields (R84). -/
theorem firstMatch_eq_some {op : Word} {i : Instr} {rows : List Descriptor} (h : firstMatch op rows = some i) :
    ∃ d ∈ rows, d.accepts op = true ∧ d.build (fieldsOf op) = i := by
  induction rows with
  | nil => cases h
  | cons d rest ih =>
    rw [firstMatch] at h
    split_ifs at h with hd
    · exact ⟨d, List.mem_cons_self, hd, Option.some.inj h⟩
    · obtain ⟨e, he, hacc⟩ := ih h
      exact ⟨e, List.mem_cons_of_mem d he, hacc⟩

/-- Every row of the opcode map loses no bit (R86). -/
theorem opcodeMap_encodesBack : ∀ d ∈ opcodeMap, d.EncodesBack := by
  have hsystem : ∀ d ∈ systemRows, d.EncodesBack := by
    simp only [systemRows, List.forall_mem_cons]
    exact ⟨encodesBack_fixed rfl, encodesBack_fixed rfl, encodesBack_nnn fun _ => rfl, List.forall_mem_nil _⟩
  have himmediate : ∀ d ∈ immediateRows, d.EncodesBack := by
    simp only [immediateRows, List.forall_mem_cons]
    exact ⟨encodesBack_nnn fun _ => rfl, encodesBack_nnn fun _ => rfl, encodesBack_xkk fun _ _ => rfl,
      encodesBack_xkk fun _ _ => rfl, encodesBack_xy fun _ _ => rfl, encodesBack_xkk fun _ _ => rfl,
      encodesBack_xkk fun _ _ => rfl, List.forall_mem_nil _⟩
  have hregister : ∀ d ∈ registerRows, d.EncodesBack := by
    simp only [registerRows, List.forall_mem_cons]
    refine ⟨?_, ?_, ?_, ?_, ?_, ?_, ?_, ?_, ?_, ?_, List.forall_mem_nil _⟩ <;> exact encodesBack_xy fun _ _ => rfl
  have hindex : ∀ d ∈ indexRows, d.EncodesBack := by
    simp only [indexRows, List.forall_mem_cons]
    exact ⟨encodesBack_nnn fun _ => rfl, encodesBack_nnn fun _ => rfl, encodesBack_xkk fun _ _ => rfl,
      encodesBack_xyn fun _ _ _ => rfl, List.forall_mem_nil _⟩
  have hunary : ∀ d ∈ unaryRows, d.EncodesBack := by
    simp only [unaryRows, List.forall_mem_cons]
    refine ⟨?_, ?_, ?_, ?_, ?_, ?_, ?_, ?_, ?_, ?_, ?_, List.forall_mem_nil _⟩ <;> exact encodesBack_x fun _ => rfl
  simp only [opcodeMap, List.forall_mem_append]
  exact ⟨⟨⟨⟨hsystem, himmediate⟩, hregister⟩, hindex⟩, hunary⟩

/-- Only the two words that CLS and RET take from SYS do not decode back. -/
theorem wf_of_decode_encode {i : Instr} (h : decode (encode i) = some i) : i.wf = true := by
  cases i with
  | sys nnn =>
    have hcls : nnn ≠ 0x0E0 := by rintro rfl; cases h
    have hret : nnn ≠ 0x0EE := by rintro rfl; cases h
    simpa [Instr.wf] using And.intro hcls hret
  | _ => rfl

/-- Settles O3: the row that accepted the word loses no bit of it, and SYS does not come to the words of CLS and RET. -/
theorem decodedWordsEncodeBack : Obligations.DecodedWordsEncodeBack := by
  intro op i hop
  obtain ⟨d, hd, hacc, rfl⟩ := firstMatch_eq_some hop
  have hback : encode (d.build (fieldsOf op)) = op := opcodeMap_encodesBack d hd op hacc
  exact ⟨wf_of_decode_encode (hback.symm ▸ hop), hback⟩

/-! ### The words that no row accepts -/

theorem firstMatch_eq_none {op : Word} {rows : List Descriptor} :
    firstMatch op rows = none ↔ ∀ d ∈ rows, ¬ op &&& d.mask = d.pattern := by
  induction rows with
  | nil => simp [firstMatch]
  | cons d rest ih => rw [List.forall_mem_cons, ← ih, firstMatch, ← Descriptor.accepts_iff]; split_ifs <;> simp [*]

theorem toNat_append_eq {m n : Nat} (a : BitVec m) (b : BitVec n) : (a ++ b).toNat = a.toNat * 2 ^ n + b.toNat := by
  rw [BitVec.toNat_append, ← Nat.shiftLeft_add_eq_or_of_lt b.isLt, Nat.shiftLeft_eq]

/-- The masks of R86 keep the major nibble and none, the last or the last two hexadecimal digits. -/
theorem toNat_and_major (op : Word) : (op &&& 0xF000).toNat = op.toNat / 4096 * 4096 := by
  have hop := congrArg BitVec.toNat (eq_major_append_nnn op)
  have hlow := (fieldsOf op).nnn.isLt
  conv_lhs => rw [eq_major_append_nnn op, and_major_nnn, toNat_append_eq]
  rw [toNat_append_eq] at hop
  norm_num at hop ⊢
  omega

theorem toNat_and_minor_nibble (op : Word) : (op &&& 0xF00F).toNat = op.toNat / 4096 * 4096 + op.toNat % 16 := by
  have hop := congrArg BitVec.toNat (eq_major_append_xyn op)
  have hx := (fieldsOf op).x.isLt
  have hy := (fieldsOf op).y.isLt
  have hn := (fieldsOf op).n.isLt
  conv_lhs => rw [eq_major_append_xyn op, and_minor_nibble, toNat_append_eq, toNat_append_eq, toNat_append_eq]
  rw [toNat_append_eq, toNat_append_eq, toNat_append_eq] at hop
  norm_num at hop ⊢
  omega

theorem toNat_and_minor_byte (op : Word) : (op &&& 0xF0FF).toNat = op.toNat / 4096 * 4096 + op.toNat % 256 := by
  have hop := congrArg BitVec.toNat (eq_major_append_xkk op)
  have hx := (fieldsOf op).x.isLt
  have hkk := (fieldsOf op).kk.isLt
  conv_lhs => rw [eq_major_append_xkk op, and_minor_byte, toNat_append_eq, toNat_append_eq]
  rw [toNat_append_eq, toNat_append_eq] at hop
  norm_num at hop ⊢
  omega

section
variable {op pattern : Word}

theorem and_full_eq_iff :
    op &&& 0xFFFF = pattern ↔ op.toNat / 4096 = pattern.toNat / 4096 ∧ op.toNat % 4096 = pattern.toNat % 4096 := by
  rw [show op &&& 0xFFFF = op from BitVec.and_allOnes, ← BitVec.toNat_inj]
  omega

theorem and_major_eq_iff (hp : pattern &&& 0xF000 = pattern) :
    op &&& 0xF000 = pattern ↔ op.toNat / 4096 = pattern.toNat / 4096 := by
  rw [← hp, ← BitVec.toNat_inj, toNat_and_major, toNat_and_major]
  omega

theorem and_minor_nibble_eq_iff (hp : pattern &&& 0xF00F = pattern) :
    op &&& 0xF00F = pattern ↔ op.toNat / 4096 = pattern.toNat / 4096 ∧ op.toNat % 16 = pattern.toNat % 16 := by
  rw [← hp, ← BitVec.toNat_inj, toNat_and_minor_nibble, toNat_and_minor_nibble]
  omega

theorem and_minor_byte_eq_iff (hp : pattern &&& 0xF0FF = pattern) :
    op &&& 0xF0FF = pattern ↔ op.toNat / 4096 = pattern.toNat / 4096 ∧ op.toNat % 256 = pattern.toNat % 256 := by
  rw [← hp, ← BitVec.toNat_inj, toNat_and_minor_byte, toNat_and_minor_byte]
  omega

end

/-- Settles O6: that no row accepts the word is a condition on its digits, and only under the major nibble 8 does
it take arithmetic to turn the accepted last nibbles into the others. -/
theorem undecodableWordsAreExactlyTheFiveClasses : Obligations.UndecodableWordsAreExactlyTheFiveClasses := by
  intro op
  have hmajor : op.toNat / 4096 < 16 := Nat.div_lt_of_lt_mul op.isLt
  have hnibble : op.toNat % 16 < 16 := Nat.mod_lt _ (by decide)
  rw [decode, firstMatch_eq_none]
  simp (disch := decide) only [opcodeMap, systemRows, immediateRows, registerRows, indexRows, unaryRows,
    List.forall_mem_append, List.forall_mem_cons, and_full_eq_iff, and_major_eq_iff, and_minor_nibble_eq_iff,
    and_minor_byte_eq_iff, BitVec.reduceToNat, Nat.reduceDiv, Nat.reduceMod]
  generalize op.toNat / 4096 = major at *
  interval_cases major <;> simp
  omega

/-! ### Operand fields and sample words -/

/-- A bit range is the word under the mask of the range, moved to bit 0 (R83). -/
theorem toNat_extractLsb'_eq_mask_shift (op : Word) {mask : Word} {start len : Nat}
    (hmask : mask.toNat >>> start = 2 ^ len - 1) :
    (op.extractLsb' start len).toNat = ((op &&& mask) >>> start).toNat := by
  rw [BitVec.extractLsb'_toNat, BitVec.toNat_ushiftRight, BitVec.toNat_and, Nat.shiftRight_and_distrib, hmask,
    Nat.and_two_pow_sub_one_eq_mod]

/-- Settles O5: each field is a bit range; at start 0 the shift does nothing. -/
theorem operandFieldsAreMaskedAndShifted : Obligations.OperandFieldsAreMaskedAndShifted := by
  intro op
  have hlow {mask : Word} {len : Nat} (hmask : mask.toNat >>> 0 = 2 ^ len - 1) :
      (op.extractLsb' 0 len).toNat = (op &&& mask).toNat := by
    rw [toNat_extractLsb'_eq_mask_shift op hmask, BitVec.ushiftRight_zero]
  exact ⟨hlow rfl, hlow rfl, hlow rfl, toNat_extractLsb'_eq_mask_shift op rfl, toNat_extractLsb'_eq_mask_shift op rfl⟩

/-- Settles O1: fifteen fixed words, each decoded by evaluation. -/
theorem sampleWordsDecode : Obligations.SampleWordsDecode := by
  unfold Obligations.SampleWordsDecode
  decide

end Sys2Proof
end

-- The proofs of the remaining statements about what an instruction may write (10_state.md).
section
/-! PROOFS. What an instruction may write (10_state.md R20 to R37): the parts of the state that each instruction may write, the
frame that follows for every one of them, and what stands in VF, PC, the stack and memory where it is written. -/

namespace Sys2Proof

open Machine

/-- The parts of the state that an instruction may write (10_state.md R20 to R33). -/
def Instr.writes : Instr → List Part
  | .cls => [.disp]
  | .ret => [.pc, .sp]
  | .sys _ => []
  | .call _ => [.pc, .sp, .stack]
  | .jp _ | .jpV0Nnn _ | .seVxKk _ _ | .sneVxKk _ _ | .seVxVy _ _ | .sneVxVy _ _ | .skpVx _ | .sknpVx _ => [.pc]
  | .ldVxKk _ _ | .addVxKk _ _ | .ldVxVy _ _ | .orVxVy _ _ | .andVxVy _ _ | .xorVxVy _ _ => [.v]
  | .addVxVy _ _ | .subVxVy _ _ | .shrVxVy _ _ | .subnVxVy _ _ | .shlVxVy _ _ => [.v]
  | .ldVxDt _ | .ldVxMemI _ => [.v]
  | .ldINnn _ | .addIVx _ | .ldFVx _ => [.i]
  | .rndVxKk _ _ => [.v, .draws]
  | .drwVxVyN _ _ _ => [.v, .disp]
  | .ldVxK _ => [.v, .pc]
  | .ldDtVx _ => [.dt]
  | .ldStVx _ => [.st]
  | .ldBVx _ | .ldMemIVx _ => [.mem]

section
variable {i : Instr}

theorem Instr.writes_subset (i : Instr) :
    i.writes ⊆ [.v, .i, .pc, .sp, .stack, .dt, .st, .disp, .mem, .draws] := by
  cases i <;> simp [Instr.writes]

theorem Instr.eq_of_writes_i (h : .i ∈ i.writes) :
    (∃ nnn, i = .ldINnn nnn) ∨ (∃ x, i = .addIVx x) ∨ ∃ x, i = .ldFVx x := by
  cases i <;> simp [Instr.writes] at h ⊢

theorem Instr.eq_of_writes_sp (h : .sp ∈ i.writes) : i = .ret ∨ ∃ nnn, i = .call nnn := by
  cases i <;> simp [Instr.writes] at h ⊢

theorem Instr.eq_of_writes_stack (h : .stack ∈ i.writes) : ∃ nnn, i = .call nnn := by
  cases i <;> simp [Instr.writes] at h ⊢

theorem Instr.eq_of_writes_dt (h : .dt ∈ i.writes) : ∃ x, i = .ldDtVx x := by
  cases i <;> simp [Instr.writes] at h ⊢

theorem Instr.eq_of_writes_st (h : .st ∈ i.writes) : ∃ x, i = .ldStVx x := by
  cases i <;> simp [Instr.writes] at h ⊢

theorem Instr.eq_of_writes_disp (h : .disp ∈ i.writes) : i = .cls ∨ ∃ x y n, i = .drwVxVyN x y n := by
  cases i <;> simp [Instr.writes] at h ⊢

theorem Instr.eq_of_writes_mem (h : .mem ∈ i.writes) : ∃ x, i = .ldBVx x ∨ i = .ldMemIVx x := by
  cases i <;> simp [Instr.writes] at h ⊢

theorem Instr.eq_of_writes_draws (h : .draws ∈ i.writes) : ∃ x kk, i = .rndVxKk x kk := by
  cases i <;> simp [Instr.writes] at h ⊢

end

namespace Machine

/-! ### The frame of every instruction -/

theorem State.skipIf_sameBut (s : State) (c : Bool) : SameBut [.pc] s (s.skipIf c) :=
  s.skipIf_eq c ▸ s.setPc_sameBut _

theorem State.draw_sameBut (s : State) : SameBut [.draws] s s.draw.2 := by
  intro p hp
  cases p with
  | draws => exact absurd (by decide) hp
  | mem => exact State.readByte_congr s.draw_fontRom s.draw_mem
  | _ => rfl

theorem State.pop_sameBut {s t : State} {w : Word} (h : s.pop = some (w, t)) : SameBut [.sp] s t := by
  obtain ⟨-, -, rfl⟩ := State.pop_eq_some.mp h
  intro p hp
  cases p with
  | sp => exact absurd (by decide) hp
  | mem => exact State.readByte_congr rfl rfl
  | _ => rfl

/-- Two frames one after the other. -/
theorem SameBut.append {ps qs : List Part} {s t u : State} (h : SameBut ps s t) (k : SameBut qs t u) :
    SameBut (ps ++ qs) s u :=
  (h.mono (List.subset_append_left ps qs)).trans (k.mono (List.subset_append_right ps qs))

/-- An instruction that completes leaves every part as it was that it may not write. -/
theorem exec_sameBut {i : Instr} {s t : State} (h : exec i s = .next t) : SameBut i.writes s t := by
  rw [exec_eq_next] at h
  cases i with
  | cls => subst h; exact s.setDisp_sameBut 0
  | ret =>
    obtain ⟨w, u, hpop, rfl⟩ := h
    exact ((State.pop_sameBut hpop).append (u.setPc_sameBut w)).mono (by simp [Instr.writes])
  | sys nnn => exact h.elim
  | call nnn =>
    obtain ⟨u, hpush, rfl⟩ := h
    exact ((State.push_sameBut hpush).append (u.setPc_sameBut _)).mono (by simp [Instr.writes])
  | jp nnn => subst h; exact s.setPc_sameBut _
  | jpV0Nnn nnn => subst h; exact s.setPc_sameBut _
  | seVxKk x kk => subst h; exact s.skipIf_sameBut _
  | sneVxKk x kk => subst h; exact s.skipIf_sameBut _
  | seVxVy x y => subst h; exact s.skipIf_sameBut _
  | sneVxVy x y => subst h; exact s.skipIf_sameBut _
  | skpVx x => obtain ⟨k, -, rfl⟩ := h; exact s.skipIf_sameBut _
  | sknpVx x => obtain ⟨k, -, rfl⟩ := h; exact s.skipIf_sameBut _
  | ldVxKk x kk => subst h; exact s.setV_sameBut x _
  | addVxKk x kk => subst h; exact s.setV_sameBut x _
  | ldVxVy x y => subst h; exact s.setV_sameBut x _
  | orVxVy x y => subst h; exact s.setV_sameBut x _
  | andVxVy x y => subst h; exact s.setV_sameBut x _
  | xorVxVy x y => subst h; exact s.setV_sameBut x _
  | addVxVy x y => subst h; exact s.setResultFlag_sameBut x _ _
  | subVxVy x y => subst h; exact s.setResultFlag_sameBut x _ _
  | shrVxVy x y => subst h; exact s.setResultFlag_sameBut x _ _
  | subnVxVy x y => subst h; exact s.setResultFlag_sameBut x _ _
  | shlVxVy x y => subst h; exact s.setResultFlag_sameBut x _ _
  | rndVxKk x kk => subst h; exact (s.draw_sameBut.append (s.draw.2.setV_sameBut x _)).mono (by simp [Instr.writes])
  | ldINnn nnn => subst h; exact s.setI_sameBut _
  | addIVx x => subst h; exact s.setI_sameBut _
  | ldFVx x => subst h; exact s.setI_sameBut _
  | ldBVx x => obtain ⟨-, rfl⟩ := h; exact s.storeBytes_sameBut _ _
  | ldMemIVx x => obtain ⟨-, rfl⟩ := h; exact s.storeBytes_sameBut _ _
  | ldVxMemI x => obtain ⟨-, rfl⟩ := h; exact s.loadRegsUpTo_sameBut _ x
  | drwVxVyN x y n =>
    obtain ⟨-, rfl⟩ := h
    exact ((s.setDisp_sameBut _).append (State.setV_sameBut _ vf _)).mono (by simp [Instr.writes])
  | ldVxDt x => subst h; exact s.setV_sameBut x _
  | ldVxK x =>
    rcases h with ⟨k, -, rfl⟩ | ⟨-, rfl⟩
    · exact (s.setV_sameBut x _).mono (by simp [Instr.writes])
    · exact (s.setPc_sameBut _).mono (by simp [Instr.writes])
  | ldDtVx x => subst h; exact s.setDt_sameBut _
  | ldStVx x => subst h; exact s.setSt_sameBut _

/-- What an instruction changes is among the parts that it may write. -/
theorem mem_writes_of_not_same {i : Instr} {s t : State} (h : exec i s = .next t) {p : Part} (hp : ¬ p.same s t) :
    p ∈ i.writes :=
  by_contra fun hnot => hp (exec_sameBut h p hnot)

/-- Settles O24: a changed part is among those that the instruction may write, and the list of these names its writers. -/
theorem eachPieceOfStateHasItsOwnWriters : Obligations.EachPieceOfStateHasItsOwnWriters := fun i _ _ h =>
  ⟨fun hi => Instr.eq_of_writes_i (mem_writes_of_not_same h hi),
    fun hsp => Instr.eq_of_writes_sp (mem_writes_of_not_same h hsp),
    fun hstack => Instr.eq_of_writes_stack (mem_writes_of_not_same h hstack),
    fun hdt => Instr.eq_of_writes_dt (mem_writes_of_not_same h hdt),
    fun hst => Instr.eq_of_writes_st (mem_writes_of_not_same h hst),
    fun hdisp => Instr.eq_of_writes_disp (mem_writes_of_not_same h hdisp),
    fun ⟨a, ha⟩ => Instr.eq_of_writes_mem (mem_writes_of_not_same h fun hsame => ha (hsame a)),
    fun hdraws => Instr.eq_of_writes_draws (mem_writes_of_not_same h hdraws),
    (exec_sameBut h).mono i.writes_subset⟩

/-! ### VF and PC -/

theorem flagByte_eq_zero_or_one (b : Bool) : flagByte b = 0 ∨ flagByte b = 1 := by
  cases b
  · exact .inl rfl
  · exact .inr rfl

/-- After result and flag (R22), VF is the flag whatever the destination. -/
theorem State.getV_vf_setResultFlag (s : State) (x : Reg) (b : Byte) (flag : Bool) :
    (s.setResultFlag x b flag).getV vf = 0 ∨ (s.setResultFlag x b flag).getV vf = 1 := by
  rw [State.getV_setResultFlag, if_pos rfl]
  exact flagByte_eq_zero_or_one flag

theorem State.getV_vf_setV {x : Reg} (hx : x ≠ vf) (s : State) (b : Byte) : (s.setV x b).getV vf = s.getV vf := by
  rw [State.getV_setV, if_neg hx.symm]

/-- Settles O25: a flag is written last, a destination other than VF leaves VF alone, and the rest write no register. -/
theorem flagRegisterIsWrittenBySixInstructionsOrAsData :
    Obligations.FlagRegisterIsWrittenBySixInstructionsOrAsData := by
  intro i s t hexec
  have h := (exec_eq_next i s t).mp hexec
  cases i with
  | addVxVy x y => subst h; exact s.getV_vf_setResultFlag x _ _
  | subVxVy x y => subst h; exact s.getV_vf_setResultFlag x _ _
  | shrVxVy x y => subst h; exact s.getV_vf_setResultFlag x _ _
  | subnVxVy x y => subst h; exact s.getV_vf_setResultFlag x _ _
  | shlVxVy x y => subst h; exact s.getV_vf_setResultFlag x _ _
  | drwVxVyN x y n =>
    obtain ⟨-, rfl⟩ := h
    rw [State.getV_setFlag, if_pos rfl]
    exact flagByte_eq_zero_or_one _
  | ldVxKk x kk => subst h; exact fun hx => s.getV_vf_setV hx _
  | addVxKk x kk => subst h; exact fun hx => s.getV_vf_setV hx _
  | ldVxVy x y => subst h; exact fun hx => s.getV_vf_setV hx _
  | orVxVy x y => subst h; exact fun hx => s.getV_vf_setV hx _
  | andVxVy x y => subst h; exact fun hx => s.getV_vf_setV hx _
  | xorVxVy x y => subst h; exact fun hx => s.getV_vf_setV hx _
  | rndVxKk x kk => subst h; exact fun hx => s.draw.2.getV_vf_setV hx _
  | ldVxDt x => subst h; exact fun hx => s.getV_vf_setV hx _
  | ldVxK x =>
    intro hx
    rcases h with ⟨k, -, rfl⟩ | ⟨-, rfl⟩
    · exact s.getV_vf_setV hx _
    · rfl
  | ldVxMemI x =>
    intro hx
    obtain ⟨-, rfl⟩ := h
    have hvf : ¬ vf ≤ x := fun hle => hx (le_antisymm (Fin.le_last x) hle)
    rw [State.getV_loadRegsUpTo, if_neg hvf]
  | _ => exact exec_sameBut hexec .v (by simp [Instr.writes])

theorem State.skipIf_pc (s : State) (c : Bool) : (s.skipIf c).pc = s.pc ∨ (s.skipIf c).pc = s.pc + 2 := by
  cases c
  · exact .inl rfl
  · exact .inr rfl

/-- Settles O26: a skip is `skipIf`, a key wait writes a register or rewinds, and the rest but the jumps, call and return may not
write PC. -/
theorem onlyControlTransferMovesThePc : Obligations.OnlyControlTransferMovesThePc := by
  intro i s t hexec
  have h := (exec_eq_next i s t).mp hexec
  cases i with
  | jp nnn => trivial
  | call nnn => trivial
  | ret => trivial
  | jpV0Nnn nnn => trivial
  | seVxKk x kk => subst h; exact s.skipIf_pc _
  | sneVxKk x kk => subst h; exact s.skipIf_pc _
  | seVxVy x y => subst h; exact s.skipIf_pc _
  | sneVxVy x y => subst h; exact s.skipIf_pc _
  | skpVx x => obtain ⟨k, -, rfl⟩ := h; exact s.skipIf_pc _
  | sknpVx x => obtain ⟨k, -, rfl⟩ := h; exact s.skipIf_pc _
  | ldVxK x =>
    rcases h with ⟨k, -, rfl⟩ | ⟨-, rfl⟩
    · exact .inl rfl
    · exact .inr rfl
  | _ => exact exec_sameBut hexec .pc (by simp [Instr.writes])

end Machine

end Sys2Proof
end

-- The proofs of the remaining statements about the engine cycle and the invariant (40_engine_cycle.md, 10_state.md section 4).
section
/-! PROOFS. The engine cycle (40_engine_cycle.md): the frame of a step and of every operation (R37), the state that a fatal
leaves (R207), runs over a schedule (R110), and the invariant that every transition keeps (10_state.md R25). -/

namespace Sys2Proof.Machine

/-! ### The step -/

/-- A step that ends well (R101): the fetched instruction executed behind the advance, then Render. -/
theorem State.perform_step_ok {s t : State} (h : s.perform .step = .ok t) :
    ∃ i u, s.fetches i ∧ exec i s.advancePc = .next u ∧ t = u.emit [.render] := by
  obtain ⟨i, u, hpc, hdec, hexec, ht⟩ := State.engineStep_ok h
  exact ⟨i, u, ⟨hpc, (congrArg decode (wordOfBytes_eq _ _)).symm.trans hdec⟩, hexec, ht⟩

theorem State.fetches.perform_step_of_exec_eq_next {s u : State} {i : Instr} (h : s.fetches i)
    (hexec : exec i s.advancePc = .next u) : s.perform .step = .ok (u.emit [.render]) := by
  rw [h.perform_step, hexec, finishStep]

theorem State.fetches.perform_step_of_exec_eq_fault {s : State} {i : Instr} {f : Fault} (h : s.fetches i)
    (hexec : exec i s.advancePc = .fault f) : s.perform .step = .fatal f (s.advancePc.emit []) := by
  rw [h.perform_step, hexec, finishStep]

/-- The frame of a step (R37): the advance, what the fetched instruction may write, and the events. -/
theorem State.perform_step_sameBut {s t : State} (h : s.perform .step = .ok t) :
    ∃ i, s.fetches i ∧ SameBut ([.pc] ++ i.writes ++ [.events]) s t := by
  obtain ⟨i, u, hfetch, hexec, rfl⟩ := State.perform_step_ok h
  exact ⟨i, hfetch, ((s.setPc_sameBut _).append (exec_sameBut hexec)).append (u.emit_sameBut [.render])⟩

/-- Settles O21: the frames of a step, of a tick and of a key write; `reset` and `loadProgram` keep the model's own fields. -/
theorem operationsWriteOnlyTheirState : Obligations.OperationsWriteOnlyTheirState := by
  intro s t op h
  cases op with
  | step =>
    obtain ⟨i, -, hframe⟩ := State.perform_step_sameBut h
    have hwrites := List.Subset.trans i.writes_subset (List.subset_append_left _ [.events])
    exact hframe.mono (List.append_subset.mpr ⟨List.append_subset.mpr ⟨by simp, hwrites⟩, by simp⟩)
  | tick => cases h; exact s.tick_sameBut
  | keyWrite k b =>
    cases h
    exact ⟨fun j hj => (s.pressed_keyWrite k b j).trans (if_neg hj), s.keyWrite_sameBut k b⟩
  | reset => cases h; exact ⟨rfl, rfl, rfl⟩
  | loadProgram bytes =>
    rcases Nat.lt_or_ge 3584 bytes.length with hlt | hle
    · cases (s.loadProgram_of_lt_length hlt).symm.trans h
    · cases (s.loadProgram_of_length_le hle).symm.trans h
      exact ⟨rfl, rfl, rfl⟩

/-- No operation touches the schedule (log 3). -/
theorem State.perform_schedule {s t : State} {op : HostOp} (h : s.perform op = .ok t) : t.schedule = s.schedule := by
  have hwrites := operationsWriteOnlyTheirState s t op h
  cases op with
  | step => exact hwrites .schedule (by decide)
  | tick => exact hwrites .schedule (by decide)
  | keyWrite k b => exact hwrites.2 .schedule (by decide)
  | reset => exact hwrites.2.2
  | loadProgram bytes => exact hwrites.2.2

theorem OpResult.outcome_eq_next {r : OpResult} {t : State} : r.outcome = .next t ↔ r = .ok t := by
  cases r <;> simp [OpResult.outcome]

theorem run_succ_refused {k : Nat} {s : State} {r : Refusal} (h : step s = .refused r) :
    Host.Core.run Sys2Proof.core (k + 1) s = .refused r := by
  have hstep : Sys2Proof.core.step s = .refused r := h
  simp only [Host.Core.run, hstep]

/-- Settles O8, by induction on the schedule: each transition takes the oldest operation off and leaves the rest. -/
theorem runsAreSerialisedOperations : Obligations.RunsAreSerialisedOperations := by
  intro ops
  induction ops with
  | nil => exact fun _ => rfl
  | cons op rest ih =>
    intro s
    have hstep : step { s with schedule := op :: rest } = (State.perform { s with schedule := rest } op).outcome := rfl
    rw [runOps, ← hstep, List.length_cons]
    cases ht : step { s with schedule := op :: rest } with
    | next t =>
      have hrest : t.schedule = rest := State.perform_schedule (OpResult.outcome_eq_next.mp (hstep.symm.trans ht))
      have hsame : { t with schedule := rest } = t := hrest ▸ rfl
      rw [run_succ_next ht]
      exact hsame ▸ ih t
    | fault f => exact run_succ_fault ht
    | refused r => exact run_succ_refused ht

/-! ### Fatals -/

theorem withDataRange_eq_fault {s t : State} {len : Nat} {f : Fault} :
    withDataRange s len (.next t) = .fault f ↔
      1 ≤ len ∧ 4095 < s.i.toNat + len - 1 ∧ f = .dataAddressOutOfBounds (s.i.toNat + len - 1) (s.pc - 2) := by
  rcases withDataRange_cases s len (.next t) with ⟨hok, h⟩ | ⟨hbad, h⟩ <;> rw [h]
  · exact ⟨fun e => (by cases e), fun e => (by omega)⟩
  · rw [Host.Outcome.fault.injEq, eq_comm]
    exact ⟨fun e => ⟨by omega, by omega, e⟩, fun e => e.2.2⟩

theorem withKeyIndex_eq_fault {s : State} {x : Reg} {g : Fin 16 → State} {f : Fault} :
    withKeyIndex s x (fun k => .next (g k)) = .fault f ↔
      15 < (s.getV x).toNat ∧ f = .keyIndexOutOfRange (s.getV x) (s.pc - 2) := by
  rcases withKeyIndex_cases s x (fun k => .next (g k)) with ⟨hok, h⟩ | ⟨hbad, h⟩ <;> rw [h]
  · exact ⟨fun e => (by cases e), fun e => (by omega)⟩
  · rw [Host.Outcome.fault.injEq, eq_comm]
    exact ⟨fun e => ⟨hbad, e⟩, fun e => e.2⟩

theorem exec_ret_eq_fault {s : State} {f : Fault} :
    exec .ret s = .fault f ↔ s.sp.val = 0 ∧ f = .stackUnderflow (s.pc - 2) := by
  rw [← State.pop_eq_none, exec, execRet]
  cases s.pop <;> simp [raise, State.instrAddress, eq_comm]

theorem exec_call_eq_fault {s : State} {nnn : Addr12} {f : Fault} :
    exec (.call nnn) s = .fault f ↔ s.sp.val = 16 ∧ f = .stackOverflow (s.pc - 2) := by
  rw [← State.push_eq_none (w := s.pc), exec, execCall]
  cases s.push s.pc <;> simp [raise, State.instrAddress, eq_comm]

/-- Nothing is refused (R209): an answer is a next state or a fatal. -/
theorem exec_eq_next_or_fault (i : Instr) (s : State) : (∃ t, exec i s = .next t) ∨ ∃ f, exec i s = .fault f := by
  have hrange {len : Nat} {t : State} :
      (∃ u, withDataRange s len (.next t) = .next u) ∨ ∃ f, withDataRange s len (.next t) = .fault f :=
    (withDataRange_cases s len (.next t)).imp (fun h => ⟨t, h.2⟩) fun h => ⟨_, h.2⟩
  have hindex {x : Reg} {g : Fin 16 → State} : (∃ u, withKeyIndex s x (fun k => .next (g k)) = .next u) ∨
      ∃ f, withKeyIndex s x (fun k => .next (g k)) = .fault f :=
    (withKeyIndex_cases s x (fun k => .next (g k))).imp (fun ⟨_, h⟩ => ⟨_, h⟩) fun h => ⟨_, h.2⟩
  cases i with
  | sys nnn => exact .inr ⟨_, rfl⟩
  | ret => rw [exec, execRet]; cases s.pop <;> simp [raise]
  | call nnn => rw [exec, execCall]; cases s.push s.pc <;> simp [raise]
  | ldVxK x => rw [exec, execLdVxK]; cases s.leastPressed <;> simp
  | drwVxVyN x y n => exact hrange
  | ldBVx x => exact hrange
  | ldMemIVx x => exact hrange
  | ldVxMemI x => exact hrange
  | skpVx x => exact hindex (g := fun k => s.skipIf (s.pressed k))
  | sknpVx x => exact hindex (g := fun k => s.skipIf (!s.pressed k))
  | _ => exact .inl ⟨_, rfl⟩

/-- Settles O10: the check that an instruction makes decides, and an instruction without a check completes. -/
theorem instructionFatalsAreExactlyTheseCauses : Obligations.InstructionFatalsAreExactlyTheseCauses := by
  intro i s
  refine ⟨fun r hr => ?_, fun f => ?_⟩
  · rcases exec_eq_next_or_fault i s with ⟨t, h⟩ | ⟨f, h⟩ <;> cases h.symm.trans hr
  · cases i with
    | sys nnn => rw [exec_sys, Host.Outcome.fault.injEq, eq_comm]; rfl
    | ret => exact exec_ret_eq_fault
    | call nnn => exact exec_call_eq_fault
    | drwVxVyN x y n => exact withDataRange_eq_fault
    | ldBVx x => exact withDataRange_eq_fault.trans (and_iff_right (by omega))
    | ldMemIVx x => exact withDataRange_eq_fault.trans (and_iff_right (by omega))
    | ldVxMemI x => exact withDataRange_eq_fault.trans (and_iff_right (by omega))
    | skpVx x => exact withKeyIndex_eq_fault (g := fun k => s.skipIf (s.pressed k))
    | sknpVx x => exact withKeyIndex_eq_fault (g := fun k => s.skipIf (!s.pressed k))
    | ldVxK x => rw [exec, execLdVxK]; cases s.leastPressed <;> simp
    | _ => exact ⟨fun h => (by cases h), False.elim⟩

/-- Causes 1 and 5 are no instruction's (R200): the fetch and `loadProgram` raise them. -/
theorem cause_of_exec_eq_fault {i : Instr} {s : State} {f : Fault} (h : exec i s = .fault f) :
    f.cause ≠ 1 ∧ f.cause ≠ 5 := by
  have hf := ((instructionFatalsAreExactlyTheseCauses i s).2 f).mp h
  cases i with
  | sys nnn => rw [hf]; simp [Fault.cause]
  | ret => rw [hf.2]; simp [Fault.cause]
  | call nnn => rw [hf.2]; simp [Fault.cause]
  | drwVxVyN x y n => rw [hf.2.2]; simp [Fault.cause]
  | ldBVx x => rw [hf.2]; simp [Fault.cause]
  | ldMemIVx x => rw [hf.2]; simp [Fault.cause]
  | ldVxMemI x => rw [hf.2]; simp [Fault.cause]
  | skpVx x => rw [hf.2]; simp [Fault.cause]
  | sknpVx x => rw [hf.2]; simp [Fault.cause]
  | _ => exact hf.elim

/-- Settles O9: the fetch leaves the state, decode and execute the advanced one, and `loadProgram` what `reset` leaves; no
other operation ends fatally. -/
theorem fatalsArePrecise : Obligations.FatalsArePrecise := by
  intro s t op f h
  have hadvanced (hf : f.cause ≠ 1 ∧ f.cause ≠ 5) (ht : t = s.advancePc.emit []) :
      t.events = [] ∧ (f.cause = 1 → SameBut [.events] s t) ∧ (f.cause = 5 → IsResetState s.fontRom [] t) ∧
        (f.cause ≠ 1 → f.cause ≠ 5 → t.pc = s.pc + 2 ∧ SameBut [.pc, .events] s t) := by
    subst ht
    exact ⟨rfl, fun h1 => absurd h1 hf.1, fun h5 => absurd h5 hf.2, fun _ _ =>
      ⟨rfl, (SameBut.refl [.pc] s.advancePc).emit_of_advancePc []⟩⟩
  cases op with
  | step =>
    rcases s.engineStep_cases with ⟨-, hend⟩ | ⟨-, -, hend⟩ | ⟨i, -, -, hend⟩
    · cases hend.symm.trans h
      exact ⟨rfl, fun _ => s.emit_sameBut [], fun h5 => absurd h5 (by simp [Fault.cause]), fun h1 => absurd rfl h1⟩
    · cases hend.symm.trans h
      exact hadvanced (by simp [Fault.cause]) rfl
    · obtain ⟨hexec, hleft⟩ := finishStep_eq_fatal (hend.symm.trans h)
      exact hadvanced (cause_of_exec_eq_fault hexec) hleft
  | tick => cases h
  | keyWrite k b => cases h
  | reset => cases h
  | loadProgram bytes =>
    rcases Nat.lt_or_ge 3584 bytes.length with hlt | hle
    · cases (s.loadProgram_of_lt_length hlt).symm.trans h
      exact ⟨rfl, fun h1 => absurd h1 (by simp [Fault.cause]), fun _ => s.resetOp_isResetState, fun _ h5 => absurd rfl h5⟩
    · cases (s.loadProgram_of_length_le hle).symm.trans h

/-! ### Render, the sound report, ticks -/

/-- Settles O11: a step that ends well emits Render, and one that ends fatally is precise. -/
theorem renderFollowsEverySuccessfulStep : Obligations.RenderFollowsEverySuccessfulStep := by
  refine fun s => ⟨fun t h => ?_, fun f t h => ?_⟩
  · obtain ⟨i, u, -, -, rfl⟩ := State.perform_step_ok h
    rfl
  · rw [(fatalsArePrecise s t .step f h).1]
    exact List.not_mem_nil

/-- Settles O18: SOUND after a tick is read off the decremented ST; a step may not write SOUND and emits Render alone. -/
theorem soundReportIsActiveIffTwoOrMore : Obligations.SoundReportIsActiveIffTwoOrMore := by
  refine fun s t => ⟨fun h => ?_, fun h => ?_⟩
  · cases h
    have hst := toNat_countDown s.st
    refine ⟨?_, s.tick_events⟩
    rw [s.tick_sound_eq_true, State.tick_st, ne_eq, ← BitVec.toNat_inj, hst, show (0 : Byte).toNat = 0 from rfl]
    omega
  · refine ⟨operationsWriteOnlyTheirState s t .step h .sound (by decide), fun b => ?_⟩
    rw [(renderFollowsEverySuccessfulStep s).1 t h]
    simp

/-- Settles O19, by induction on the number of ticks. -/
theorem timersCountDownAndStayAtZero : Obligations.TimersCountDownAndStayAtZero := by
  intro k s
  induction k with
  | zero => exact ⟨rfl, rfl⟩
  | succ k ih =>
    obtain ⟨hdt, hst⟩ := ih
    rw [Function.iterate_succ_apply', State.tick_dt, State.tick_st, toNat_countDown, toNat_countDown, hdt, hst]
    omega

/-! ### A step of the machine, the key wait and the self-jump -/

/-- Where nothing is scheduled, or STEP is the oldest operation, the machine steps (log 3). -/
theorem step_eq_perform_step {s u : State}
    (h : s.schedule = [] ∧ u = s ∨ ∃ rest, s.schedule = .step :: rest ∧ u = { s with schedule := rest }) :
    step s = (u.perform .step).outcome := by
  rcases h with ⟨hnil, rfl⟩ | ⟨rest, hcons, rfl⟩
  · rw [step, State.nextOp_of_nil hnil]
  · rw [step, State.nextOp_of_cons hcons]

/-- Settles O7: the three ends of a step, with the opcode as a number. -/
theorem stepRunsTheDecodedInstruction : Obligations.StepRunsTheDecodedInstruction := by
  intro s u hnext
  rw [step_eq_perform_step hnext]
  refine ⟨fun hpc => ?_, fun op hpc hop => ⟨fun hdec => ?_, fun i hdec => ?_⟩⟩
  · rw [State.perform_step_of_pc_gt hpc, OpResult.outcome]
  · have hword : u.fetchWord = op := (wordOfBytes_eq _ _).trans hop.symm
    rw [State.perform, State.engineStep, if_neg (Nat.not_lt.mpr hpc), hword, hdec, OpResult.outcome]
  · have hfetch : u.fetches i := ⟨hpc, hop ▸ hdec⟩
    refine ⟨fun t hexec => ?_, fun f hexec => ?_⟩
    · exact congrArg OpResult.outcome (hfetch.perform_step_of_exec_eq_next hexec)
    · exact congrArg OpResult.outcome (hfetch.perform_step_of_exec_eq_fault hexec)

theorem State.rewindPc_advancePc (s : State) : s.advancePc.rewindPc = s := by
  rw [State.rewindPc, State.advancePc_pc, BitVec.add_sub_cancel]
  rfl

/-- The step of a key wait with no key pressed: the rewind undoes the advance (R193). -/
theorem State.fetches.perform_step_waiting {s : State} {x : Reg} (h : s.fetches (.ldVxK x))
    (hkeys : ∀ k, s.pressed k = false) : s.perform .step = .ok (s.emit [.render]) := by
  have hexec := exec_ldVxK_of_no_key (s := s.advancePc) (State.leastPressed_eq_none.mpr hkeys) x
  rw [State.rewindPc_advancePc] at hexec
  exact h.perform_step_of_exec_eq_next hexec

/-- Settles O22: the state before, with the Render. -/
theorem waitingStepOnlyRenders : Obligations.WaitingStepOnlyRenders := fun s _ hfetch hkeys =>
  ⟨s.emit [.render], hfetch.perform_step_waiting hkeys, rfl, s.emit_sameBut _⟩

/-- The step of a jump to itself: the target undoes the advance. -/
theorem step_selfJump {s : State} {nnn : Addr12} (hsched : s.schedule = []) (hfetch : s.fetches (.jp nnn))
    (hself : s.pc.toNat = nnn.toNat) : step s = .next (s.emit [.render]) := by
  have htarget : target nnn = s.pc := BitVec.eq_of_toNat_eq ((toNat_target nnn).trans hself.symm)
  have hexec : exec (.jp nnn) s.advancePc = .next s := by
    rw [exec, execJp, htarget]
    rfl
  rw [step_eq_perform_step (.inl ⟨hsched, rfl⟩), hfetch.perform_step_of_exec_eq_next hexec, OpResult.outcome]

/-- A run of a jump to itself, by induction on its steps: the state stays but for the events. -/
theorem run_selfJump {nnn : Addr12} (k : Nat) {s : State} (hsched : s.schedule = []) (hfetch : s.fetches (.jp nnn))
    (hself : s.pc.toNat = nnn.toNat) : ∃ es, Host.Core.run Sys2Proof.core k s = .next (s.emit es) := by
  induction k generalizing s with
  | zero => exact ⟨s.events, rfl⟩
  | succ k ih =>
    rw [run_succ_next (step_selfJump hsched hfetch hself)]
    exact ih (s := s.emit [.render]) hsched hfetch hself

/-- Settles O23: every run of the self-jump ends in the state it started from but for the events. -/
theorem selfJumpRunsForever : Obligations.SelfJumpRunsForever := by
  intro s nnn hsched hfetch hself k
  obtain ⟨es, hrun⟩ := run_selfJump k hsched hfetch hself
  refine ⟨⟨s.emit es, hrun⟩, fun t ht => ?_⟩
  cases hrun.symm.trans ht
  exact s.emit_sameBut es

/-! ### The invariant -/

/-- The invariant speaks of the font, memory, PC and the stack only. -/
theorem State.Inv.of_eq {s t : State} (h : s.Inv) (hfont : t.fontRom = s.fontRom) (hmem : t.mem = s.mem)
    (hpc : t.pc = s.pc) (hstack : t.stack = s.stack) : t.Inv where
  memory := by rw [hfont, hmem]; exact h.memory
  pc := by rw [hpc]; exact h.pc
  stack := by rw [hstack]; exact h.stack

theorem State.skipIf_mem (s : State) (c : Bool) : (s.skipIf c).mem = s.mem := by
  rw [State.skipIf_eq, State.setPc_mem]

/-- An instruction leaves memory as it is or stores bytes. -/
theorem exec_mem {i : Instr} {s t : State} (h : exec i s = .next t) :
    t.mem = s.mem ∨ ∃ a bs, t.mem = Memory.writeBytes s.fontRom s.mem a bs := by
  rw [exec_eq_next] at h
  cases i with
  | sys nnn => exact h.elim
  | ldBVx x => obtain ⟨-, rfl⟩ := h; exact .inr ⟨_, _, rfl⟩
  | ldMemIVx x => obtain ⟨-, rfl⟩ := h; exact .inr ⟨_, _, rfl⟩
  | ret =>
    obtain ⟨w, u, hpop, rfl⟩ := h
    obtain ⟨-, -, rfl⟩ := State.pop_eq_some.mp hpop
    exact .inl rfl
  | call nnn =>
    obtain ⟨u, hpush, rfl⟩ := h
    obtain ⟨-, rfl⟩ := State.push_eq_some.mp hpush
    exact .inl rfl
  | drwVxVyN x y n => obtain ⟨-, rfl⟩ := h; exact .inl rfl
  | ldVxMemI x => obtain ⟨-, rfl⟩ := h; exact .inl rfl
  | skpVx x => obtain ⟨k, -, rfl⟩ := h; exact .inl (s.skipIf_mem _)
  | sknpVx x => obtain ⟨k, -, rfl⟩ := h; exact .inl (s.skipIf_mem _)
  | seVxKk x kk => subst h; exact .inl (s.skipIf_mem _)
  | sneVxKk x kk => subst h; exact .inl (s.skipIf_mem _)
  | seVxVy x y => subst h; exact .inl (s.skipIf_mem _)
  | sneVxVy x y => subst h; exact .inl (s.skipIf_mem _)
  | ldVxK x => rcases h with ⟨k, -, rfl⟩ | ⟨-, rfl⟩ <;> exact .inl rfl
  | _ => subst h; exact .inl rfl

theorem exec_memory_wf {i : Instr} {s t : State} (h : exec i s = .next t) (hwf : Memory.wf s.fontRom s.mem) :
    Memory.wf t.fontRom t.mem := by
  have hfont : t.fontRom = s.fontRom := exec_sameBut h .fontRom fun hw => absurd (i.writes_subset hw) (by decide)
  rw [hfont]
  rcases exec_mem h with hmem | ⟨a, bs, hmem⟩ <;> rw [hmem]
  · exact hwf
  · exact Memory.writeBytes_wf hwf a bs

/-- A call pushes PC, and nothing else writes a slot. -/
theorem exec_stack_le {i : Instr} {s t : State} (h : exec i s = .next t) {bound : Nat} (hpc : s.pc.toNat ≤ bound)
    (hstack : ∀ j : Fin 16, s.stack[j].toNat ≤ bound) (j : Fin 16) : t.stack[j].toNat ≤ bound := by
  by_cases hwrites : .stack ∈ i.writes
  · obtain ⟨nnn, rfl⟩ := Instr.eq_of_writes_stack hwrites
    obtain ⟨u, hpush, rfl⟩ := (exec_eq_next _ s t).mp h
    rw [State.setPc_stack, State.push_stack hpush]
    split_ifs
    · exact hpc
    · exact hstack j
  · have hsame : t.stack = s.stack := exec_sameBut h .stack hwrites
    rw [hsame]
    exact hstack j

/-- The bound of R25 on PC: a skip past 4096 is the highest without a jump, and the indexed jump reaches 0xFFF + 0xFF. -/
theorem exec_pc_le {i : Instr} {s t : State} (h : exec i s = .next t) (hlow : 2 ≤ s.pc.toNat) (hhigh : s.pc.toNat ≤ 4096)
    (hstack : ∀ j : Fin 16, s.stack[j].toNat ≤ 4096) : t.pc.toNat ≤ 0x10FE := by
  have hskip (ht : t.pc = s.pc ∨ t.pc = s.pc + 2) : t.pc.toNat ≤ 0x10FE := by
    rcases ht with ht | ht <;> rw [ht]
    · omega
    · bv_omega
  have hmoves := onlyControlTransferMovesThePc i s t h
  cases i with
  | jp nnn =>
    cases h
    have := nnn.isLt
    rw [State.setPc_pc, toNat_target]
    omega
  | jpV0Nnn nnn =>
    cases h
    have := nnn.isLt
    have := (s.getV 0).isLt
    rw [State.setPc_pc, State.toNat_indexedTarget]
    omega
  | call nnn =>
    obtain ⟨u, -, rfl⟩ := (exec_eq_next _ s t).mp h
    have := nnn.isLt
    rw [State.setPc_pc, toNat_target]
    omega
  | ret =>
    obtain ⟨w, u, hpop, rfl⟩ := (exec_eq_next _ s t).mp h
    obtain ⟨hpos, rfl, -⟩ := State.pop_eq_some.mp hpop
    exact (hstack ⟨s.sp.val - 1, by omega⟩).trans (by decide)
  | seVxKk x kk => exact hskip hmoves
  | sneVxKk x kk => exact hskip hmoves
  | seVxVy x y => exact hskip hmoves
  | sneVxVy x y => exact hskip hmoves
  | skpVx x => exact hskip hmoves
  | sknpVx x => exact hskip hmoves
  | ldVxK x =>
    rcases hmoves with ht | ht <;> rw [ht]
    · omega
    · bv_omega
  | _ => exact hskip (.inl hmoves)

theorem State.Inv.perform_step {s t : State} (hs : s.Inv) (h : s.perform .step = .ok t) : t.Inv := by
  obtain ⟨i, u, ⟨hpc, -⟩, hexec, rfl⟩ := State.perform_step_ok h
  have hadvanced : s.advancePc.pc.toNat = s.pc.toNat + 2 := by rw [State.advancePc_pc]; bv_omega
  have hu : u.Inv :=
    { memory := exec_memory_wf hexec hs.memory
      pc := exec_pc_le hexec (by omega) (by omega) hs.stack
      stack := exec_stack_le hexec (by omega) hs.stack }
  exact hu.of_eq rfl rfl rfl rfl

/-- Settles O13: nothing is listed, PC is 512 and every slot is 0. -/
theorem resetMeetsTheInvariant : Obligations.ResetMeetsTheInvariant := fun font =>
  { memory := Memory.nil_wf font
    pc := show 512 ≤ 0x10FE by decide
    stack := fun j => by rw [(State.resetWith_isResetState font).stack j]; decide }

theorem State.resetOp_inv (s : State) : s.resetOp.Inv :=
  (resetMeetsTheInvariant s.fontRom).of_eq rfl rfl rfl rfl

theorem State.Inv.storeBytes {s : State} (h : s.Inv) (a : Nat) (bs : List Byte) : (s.storeBytes a bs).Inv where
  memory := Memory.writeBytes_wf h.memory a bs
  pc := h.pc
  stack := h.stack

theorem State.Inv.perform {s t : State} {op : HostOp} (hs : s.Inv) (h : s.perform op = .ok t) : t.Inv := by
  cases op with
  | step => exact hs.perform_step h
  | tick => cases h; exact hs.of_eq rfl rfl rfl rfl
  | keyWrite k b => cases h; exact hs.of_eq rfl rfl rfl rfl
  | reset => cases h; exact s.resetOp_inv
  | loadProgram bytes =>
    rcases Nat.lt_or_ge 3584 bytes.length with hlt | hle
    · cases (s.loadProgram_of_lt_length hlt).symm.trans h
    · cases (s.loadProgram_of_length_le hle).symm.trans h
      exact s.resetOp_inv.storeBytes 512 bytes

/-- Settles O12: a transition takes an operation off the schedule and performs it, and every operation keeps the invariant. -/
theorem everyTransitionKeepsTheInvariant : Obligations.EveryTransitionKeepsTheInvariant := by
  intro s t hs h
  obtain ⟨rest, hrest⟩ := s.nextOp_rest
  have hnext : s.nextOp.2.Inv := by rw [hrest]; exact hs.of_eq rfl rfl rfl rfl
  exact hnext.perform (step_eq_next h)

end Sys2Proof.Machine
end

-- The proofs of the remaining statements about registers, memory and the call stack.
section
/-! PROOFS. Arithmetic on one register (42_load_alu.md R153), RND (R155), a return after a call (41_control_transfer.md), and
registers stored to memory and read back by a load or by a fetch (43_index_memory.md; 20_memory.md R66). -/

namespace Sys2Proof.Machine

/-! ### Registers -/

theorem State.setV_getV (s : State) (x : Reg) : s.setV x (s.getV x) = s := by
  rw [State.setV, State.getV]
  simp

theorem flagByte_eq_one_iff (b : Bool) : flagByte b = 1 ↔ b = true := by
  cases b <;> decide

theorem diff8_self (a : Byte) : diff8 a a = 0 := by
  rw [diff8, sub_self]
  rfl

theorem greaterThan_self (a : Byte) : greaterThan a a = false :=
  decide_eq_false (lt_irrefl _)

/-- A difference of a register with itself (R153): 0 in the destination and in VF, also where these are the same. -/
theorem State.getV_setResultFlag_zero {s : State} {x : Reg} :
    (s.setResultFlag x 0 false).getV x = 0 ∧ (s.setResultFlag x 0 false).getV vf = 0 := by
  have hvf : (s.setResultFlag x 0 false).getV vf = 0 := by
    rw [State.getV_setResultFlag, if_pos rfl]
    rfl
  by_cases hx : x = vf
  · exact ⟨hx ▸ hvf, hvf⟩
  · exact ⟨by rw [State.getV_setResultFlag, if_neg hx, if_pos rfl], hvf⟩

/-- Settles O39: with both operands the same byte, each result is that byte, zero or its double. -/
theorem sameRegisterOperandsCollapse : Obligations.SameRegisterOperandsCollapse := by
  intro x s
  refine ⟨fun t h => ?_, fun t h => ?_, fun t h => ?_, fun t h => ?_⟩
  · have ht : t = s.setV x (s.getV x) := by
      rcases h with h | h | h
      · exact next_eq_next.mp h
      · exact (next_eq_next.mp h).trans (congrArg (s.setV x) (BitVec.or_self))
      · exact (next_eq_next.mp h).trans (congrArg (s.setV x) (BitVec.and_self))
    rw [ht, State.setV_getV]
  · rw [next_eq_next.mp h, State.getV_setV, if_pos rfl, BitVec.xor_self]
    rfl
  · rw [next_eq_next.mp h]
    refine ⟨fun hx => ?_, ?_⟩
    · rw [State.getV_setResultFlag, if_neg hx, if_pos rfl, toNat_sum8, two_mul]
    · rw [State.getV_setResultFlag, if_pos rfl, flagByte_eq_one_iff, carryOf, decide_eq_true_iff]
      omega
  · have ht : t = s.setResultFlag x 0 false := by
      rw [← diff8_self (s.getV x), ← greaterThan_self (s.getV x)]
      exact h.elim next_eq_next.mp next_eq_next.mp
    rw [ht]
    exact State.getV_setResultFlag_zero

/-- Settles O40: the draw counts up and the masked byte is written to the destination. -/
theorem randomMasksAFreshDraw : Obligations.RandomMasksAFreshDraw := by
  refine ⟨decodesAs_of_row 22 rfl (by decide), fun x kk s => ?_⟩
  have hexec : exec (.rndVxKk x kk) s = .next (s.draw.2.setV x (Config.rndIn s.draws &&& kk)) := rfl
  have hx : (s.draw.2.setV x (Config.rndIn s.draws &&& kk)).getV x = Config.rndIn s.draws &&& kk := by
    rw [State.getV_setV, if_pos rfl]
  refine ⟨_, hexec, hx, ?_, fun r hr => ?_, rfl, exec_sameBut hexec⟩
  · rw [hx, BitVec.and_assoc, BitVec.and_not_self]
    exact BitVec.and_zero
  · rw [State.getV_setV, if_neg hr]
    rfl

/-! ### Call and return -/

/-- Settles O33: the slot that the return reads is the one that the call wrote (O31, O32). -/
theorem returnUndoesCall : Obligations.ReturnUndoesCall := by
  intro nnn s t u hcall hsp hstack
  obtain ⟨v, hpush, rfl⟩ := (exec_eq_next _ s t).mp hcall
  obtain ⟨hroom, -⟩ := State.push_eq_some.mp hpush
  have hdepth : u.sp.val = s.sp.val + 1 := (congrArg Fin.val hsp).trans (State.push_sp (t := v) hpush)
  obtain ⟨w, hret, hpc, hwsp, hframe⟩ := (returnPopsIntoThePc.2 u).1 ⟨s.sp.val, hroom⟩ hdepth
  refine ⟨w, hret, ?_, Fin.ext hwsp, hframe⟩
  rw [hpc, hstack, State.setPc_stack, State.push_stack hpush, if_pos rfl]

/-! ### Registers in memory -/

/-- After a block store (R170) the j-th stored byte is V[j]; I and the bound on it are what the load asks for. -/
theorem exec_ldMemIVx_stored {x : Reg} {s t : State} (hwf : Memory.wf s.fontRom s.mem)
    (h : exec (.ldMemIVx x) s = .next t) :
    s.ea x.val ≤ 4095 ∧ t.i = s.i ∧ ∀ j : Reg, j ≤ x → t.readByte (s.ea j.val) = s.getV j := by
  obtain ⟨hfit, rfl⟩ := (exec_eq_next _ s t).mp h
  have hea : s.ea x.val ≤ 4095 := Nat.le_of_lt_succ hfit
  exact ⟨hea, rfl, fun j hj =>
    State.readByte_storeBytes_ea hwf (s.regsUpTo_length x) hea (s.regsUpTo_getElem? hj)⟩

/-- Settles O45: the load reads the bytes that the store wrote (O43, O44). -/
theorem storedRegistersLoadBack : Obligations.StoredRegistersLoadBack := by
  intro x s t u hwf hstore hmem hfont hi
  obtain ⟨hea, hti, hstored⟩ := exec_ldMemIVx_stored hwf hstore
  have hsame (j : Nat) : u.ea j = s.ea j := by rw [State.ea_eq, State.ea_eq, hi, hti]
  obtain ⟨w, hload, hregs, -⟩ := (loadRegistersCopiesTheBlock.2 x u).1 ((hsame x.val).le.trans hea)
  refine ⟨w, hload, fun r hr => ?_, fun r hr => ?_⟩
  · rw [hregs, if_pos hr, hsame, State.readByte_congr hfont hmem, hstored r hr]
  · rw [hregs, if_neg (not_le.mpr hr)]

/-- Settles O46: both bytes of the opcode are stored registers, and the lower address is the high byte (R56). -/
theorem nextFetchSeesTheStoredBytes : Obligations.NextFetchSeesTheStoredBytes := by
  intro x j k s t hwf hstore hk hkx hpc
  obtain ⟨-, -, hstored⟩ := exec_ldMemIVx_stored hwf hstore
  have hjx : j ≤ x := le_trans (Fin.le_def.mpr (by omega)) hkx
  have hnext : s.ea j.val + 1 = s.ea k.val := by rw [State.ea_eq, State.ea_eq, hk, Nat.add_assoc]
  rw [State.fetchWord, hpc, hnext, hstored j hjx, hstored k hkx, wordOfBytes, toNat_append_eq]
  rfl

end Sys2Proof.Machine
end

-- The proofs of the statements about what a program cannot observe (10_state.md R26, R29).
section
/-! PROOFS. What a program cannot observe (10_state.md): replacing ST, SOUND and the stack before an instruction replaces them
after it, but for LD ST, which writes ST (R29), and CALL and RET, which write and read a stack slot (R26). -/

namespace Sys2Proof.Machine

/-- The state with ST, SOUND and the stack replaced. -/
def State.withUnseen (s : State) (b : Byte) (c : Bool) (k : Vector Word 16) : State :=
  { s with st := b, sound := c, stack := k }

/-- The answer with its next state, if there is one, changed. -/
def mapNext (g : State → State) : Result → Result
  | .next t => .next (g t)
  | .fault f => .fault f
  | .refused r => .refused r

@[simp] theorem mapNext_next (g : State → State) (t : State) : mapNext g (.next t) = .next (g t) := rfl
@[simp] theorem mapNext_fault (g : State → State) (f : Fault) : mapNext g (.fault f) = .fault f := rfl

theorem mapNext_congr {g g' : State → State} {r : Result} (h : ∀ t, r = .next t → g t = g' t) :
    mapNext g r = mapNext g' r := by
  cases r with
  | next t => exact congrArg Host.Outcome.next (h t rfl)
  | fault f => rfl
  | refused r => rfl

/-- Two states on which an instruction answers alike but for a change of the next state end alike. -/
theorem ends_alike_of_exec_eq {i : Instr} {s s' : State} {g : State → State} {R : State → State → Prop}
    (h : exec i s' = mapNext g (exec i s)) (hR : ∀ t, exec i s = .next t → R t (g t)) :
    (∀ t, exec i s = .next t → ∃ t', exec i s' = .next t' ∧ R t t') ∧ ∀ f, exec i s = .fault f → exec i s' = .fault f := by
  refine ⟨fun t ht => ⟨g t, ?_, hR t ht⟩, fun f hf => ?_⟩
  · rw [h, ht, mapNext_next]
  · rw [h, hf, mapNext_fault]

section
variable (s : State) (b : Byte) (c : Bool) (k : Vector Word 16)

theorem withDataRange_withUnseen (len : Nat) (t : State) :
    withDataRange (s.withUnseen b c k) len (.next (t.withUnseen b c k)) =
      mapNext (·.withUnseen b c k) (withDataRange s len (.next t)) := by
  unfold withDataRange
  rw [apply_ite (mapNext _)]
  rfl

theorem withKeyIndex_withUnseen (x : Reg) (g : Fin 16 → State) :
    withKeyIndex (s.withUnseen b c k) x (fun j => .next ((g j).withUnseen b c k)) =
      mapNext (·.withUnseen b c k) (withKeyIndex s x (fun j => .next (g j))) := by
  unfold withKeyIndex
  rw [apply_dite (mapNext _)]
  rfl

theorem State.skipIf_withUnseen (d : Bool) : (s.withUnseen b c k).skipIf d = (s.skipIf d).withUnseen b c k := by
  cases d <;> rfl

/-- No instruction but LD ST, CALL and RET reads or writes ST, SOUND or the stack. -/
theorem exec_withUnseen {i : Instr} (hst : .st ∉ i.writes) (hsp : .sp ∉ i.writes) :
    exec i (s.withUnseen b c k) = mapNext (·.withUnseen b c k) (exec i s) := by
  have hskip (d : Bool) : (.next ((s.withUnseen b c k).skipIf d) : Result) =
      mapNext (·.withUnseen b c k) (.next (s.skipIf d)) := by
    rw [State.skipIf_withUnseen, mapNext_next]
  cases i with
  | ldStVx x => simp [Instr.writes] at hst
  | ret => simp [Instr.writes] at hsp
  | call nnn => simp [Instr.writes] at hsp
  | seVxKk x kk => exact hskip _
  | sneVxKk x kk => exact hskip _
  | seVxVy x y => exact hskip _
  | sneVxVy x y => exact hskip _
  | skpVx x =>
    rw [exec, exec, execSkpVx, execSkpVx, ← withKeyIndex_withUnseen]
    exact congrArg (withKeyIndex _ x) (funext fun j => hskip (s.pressed j))
  | sknpVx x =>
    rw [exec, exec, execSknpVx, execSknpVx, ← withKeyIndex_withUnseen]
    exact congrArg (withKeyIndex _ x) (funext fun j => hskip (!s.pressed j))
  | drwVxVyN x y n =>
    exact withDataRange_withUnseen s b c k n.toNat ((s.setDisp (drawn x y n s).1).setFlag (drawn x y n s).2)
  | ldBVx x => exact withDataRange_withUnseen s b c k 3 (s.storeBytes (s.ea 0) (bcdDigits (s.getV x)))
  | ldMemIVx x => exact withDataRange_withUnseen s b c k (x.val + 1) (s.storeBytes (s.ea 0) (s.regsUpTo x))
  | ldVxMemI x => exact withDataRange_withUnseen s b c k (x.val + 1) (s.loadRegsUpTo (s.ea 0) x)
  | ldVxK x =>
    have hkeys : (s.withUnseen b c k).leastPressed = s.leastPressed := rfl
    rw [exec, exec, execLdVxK, execLdVxK, hkeys]
    cases s.leastPressed <;> rfl
  | _ => rfl

end

/-- An instruction that does not write SP leaves the stack alone. -/
theorem exec_stack {i : Instr} {s t : State} (hsp : .sp ∉ i.writes) (h : exec i s = .next t) : t.stack = s.stack := by
  refine exec_sameBut h .stack fun hstack => ?_
  obtain ⟨nnn, rfl⟩ := Instr.eq_of_writes_stack hstack
  exact hsp (by simp [Instr.writes])

theorem exec_sound {i : Instr} {s t : State} (h : exec i s = .next t) : t.sound = s.sound :=
  exec_sameBut h .sound fun hw => absurd (i.writes_subset hw) (by decide)

/-! ### ST and SOUND -/

theorem State.withSound_sameBut (s : State) (b : Byte) (c : Bool) :
    SameBut [.st, .sound] s { s with st := b, sound := c } := by
  intro p hp
  cases p with
  | st => exact absurd (by decide) hp
  | sound => exact absurd (by decide) hp
  | mem => exact State.readByte_congr rfl rfl
  | _ => rfl

theorem exec_call_withSound (nnn : Addr12) (s : State) (b : Byte) (c : Bool) :
    exec (.call nnn) { s with st := b, sound := c } =
      mapNext (fun t => { t with st := b, sound := c }) (exec (.call nnn) s) := by
  simp only [exec, execCall, State.push]
  split_ifs <;> rfl

theorem exec_ret_withSound (s : State) (b : Byte) (c : Bool) :
    exec .ret { s with st := b, sound := c } = mapNext (fun t => { t with st := b, sound := c }) (exec .ret s) := by
  simp only [exec, execRet, State.pop]
  split_ifs <;> rfl

/-- Settles O27: LD ST gives both states the same ST, and every other instruction passes the difference on as it is. -/
theorem soundTimerIsUnobservable : Obligations.SoundTimerIsUnobservable := by
  intro i s b c
  by_cases hst : .st ∈ i.writes
  · obtain ⟨x, rfl⟩ := Instr.eq_of_writes_st hst
    refine ends_alike_of_exec_eq (g := fun t => { t with sound := c }) rfl fun t _ => ?_
    exact t.withSound_sameBut t.st c
  · refine ends_alike_of_exec_eq (g := fun t => { t with st := b, sound := c }) ?_ fun t _ => t.withSound_sameBut b c
    by_cases hsp : .sp ∈ i.writes
    · rcases Instr.eq_of_writes_sp hsp with rfl | ⟨nnn, rfl⟩
      · exact exec_ret_withSound s b c
      · exact exec_call_withSound nnn s b c
    · refine (exec_withUnseen s b c s.stack hst hsp).trans (mapNext_congr fun t ht => ?_)
      rw [State.withUnseen, ← exec_stack hsp ht]

/-! ### Dead stack slots -/

theorem State.withStack_sameBut (s : State) (k : Vector Word 16) : SameBut [.stack] s { s with stack := k } := by
  intro p hp
  cases p with
  | stack => exact absurd (by decide) hp
  | mem => exact State.readByte_congr rfl rfl
  | _ => rfl

/-- Two states that differ in the stack at most, memory being the same data. -/
theorem SameBut.eq_withStack {s s' : State} (h : SameBut [.stack] s s') (hmem : s'.mem = s.mem) :
    s' = { s with stack := s'.stack } := by
  have hv := h .v (by decide)
  have hi := h .i (by decide)
  have hpc := h .pc (by decide)
  have hsp := h .sp (by decide)
  have hdt := h .dt (by decide)
  have hst := h .st (by decide)
  have hdisp := h .disp (by decide)
  have hkey := h .key (by decide)
  have hsound := h .sound (by decide)
  have hfont := h .fontRom (by decide)
  have hdraws := h .draws (by decide)
  have hsched := h .schedule (by decide)
  have hevents := h .events (by decide)
  cases s'
  simp only [Part.same] at *
  subst_vars
  rfl

/-- No instruction but CALL and RET reads or writes the stack. -/
theorem exec_withStack {i : Instr} {s : State} (hsp : .sp ∉ i.writes) (k : Vector Word 16) :
    exec i { s with stack := k } = mapNext (fun t => { t with stack := k }) (exec i s) := by
  by_cases hst : .st ∈ i.writes
  · obtain ⟨x, rfl⟩ := Instr.eq_of_writes_st hst
    rfl
  · refine (exec_withUnseen s s.st s.sound k hst hsp).trans (mapNext_congr fun t ht => ?_)
    have hsame : t.st = s.st := exec_sameBut ht .st hst
    rw [State.withUnseen, ← hsame, ← exec_sound ht]

section
variable {s : State} {k : Vector Word 16}

/-- A return pops a live slot, the same in both stacks. -/
theorem exec_ret_withStack (hlive : ∀ j : Fin 16, j.val < s.sp.val → k[j] = s.stack[j]) :
    exec .ret { s with stack := k } = mapNext (fun t => { t with stack := k }) (exec .ret s) := by
  simp only [exec, execRet, State.pop]
  split_ifs with hpos
  · have hslot := hlive ⟨s.sp.val - 1, by omega⟩ (Nat.sub_one_lt_of_lt hpos)
    exact congrArg (fun w => Host.Outcome.next { s with stack := k, pc := w, sp := ⟨s.sp.val - 1, by omega⟩ }) hslot
  · rfl

/-- A call writes the same word into the same slot of both stacks. -/
theorem exec_call_withStack (nnn : Addr12) (hroom : s.sp.val < 16) :
    exec (.call nnn) { s with stack := k } =
      mapNext (fun t => { t with stack := k.set s.sp.val s.pc }) (exec (.call nnn) s) := by
  simp only [exec, execCall, State.push]
  rw [dif_pos hroom, dif_pos hroom]
  rfl

theorem exec_call_withStack_of_full (nnn : Addr12) (hfull : s.sp.val = 16) :
    exec (.call nnn) { s with stack := k } = mapNext id (exec (.call nnn) s) := by
  rw [exec_call_of_push_eq_none (State.push_eq_none.mpr hfull),
    exec_call_of_push_eq_none (s := { s with stack := k }) (State.push_eq_none.mpr hfull)]
  rfl

end

/-- Settles O28: a return reads a live slot, a call makes the slot live that it writes, and no other instruction has to do with
the stack. -/
theorem deadStackSlotsAreUnobservable : Obligations.DeadStackSlotsAreUnobservable := by
  intro i s s' hframe hmem hlive
  rw [hframe.eq_withStack hmem]
  generalize s'.stack = k at hlive
  by_cases hsp : .sp ∈ i.writes
  · rcases Instr.eq_of_writes_sp hsp with rfl | ⟨nnn, rfl⟩
    · refine ends_alike_of_exec_eq (exec_ret_withStack hlive) fun t ht => ⟨t.withStack_sameBut k, fun j hj => ?_⟩
      obtain ⟨w, u, hpop, rfl⟩ := (exec_eq_next _ s t).mp ht
      obtain ⟨-, -, rfl⟩ := State.pop_eq_some.mp hpop
      exact hlive j (hj.trans_le (Nat.sub_le _ _))
    · rcases Nat.lt_or_ge s.sp.val 16 with hroom | hfull
      · refine ends_alike_of_exec_eq (exec_call_withStack nnn hroom) fun t ht => ⟨t.withStack_sameBut _, fun j hj => ?_⟩
        obtain ⟨u, hpush, rfl⟩ := (exec_eq_next _ s t).mp ht
        rw [State.setPc_sp, State.push_sp hpush] at hj
        rw [State.setPc_stack, State.push_stack hpush]
        split_ifs with hslot
        · simp [hslot]
        · have hdead : (k.set s.sp.val s.pc)[j] = k[j] := Vector.getElem_set_ne _ _ (Ne.symm hslot)
          exact hdead.trans (hlive j (by omega))
      · have hfull : s.sp.val = 16 := Nat.le_antisymm (Nat.le_of_lt_succ s.sp.isLt) hfull
        refine ends_alike_of_exec_eq (exec_call_withStack_of_full nnn hfull) fun t ht => ?_
        rw [exec_call_of_push_eq_none (State.push_eq_none.mpr hfull)] at ht
        cases ht
  · refine ends_alike_of_exec_eq (exec_withStack hsp k) fun t ht => ⟨t.withStack_sameBut k, fun j hj => ?_⟩
    rw [exec_sameBut ht .sp hsp] at hj
    rw [exec_stack hsp ht]
    exact hlive j hj

end Sys2Proof.Machine
end

-- The proofs of the remaining statements about the display (44_display.md).
section
/-! PROOFS. DRW (44_display.md R183): the cells under a sprite's 1 pixels are distinct, so the drawing loop toggles each of them
once and sees it as it was before the draw. -/

namespace Sys2Proof.Machine

/-! ### The drawing loop on distinct cells -/

/-- The loop toggles the listed cells, and a hit is a listed cell that was set at first. -/
theorem Display.foldl_plot {cells : List Nat} (hnodup : cells.Nodup) (hlt : ∀ c ∈ cells, c < 2048) (d : Display) (b : Bool) :
    (∀ j, (cells.foldl Display.plot (d, b)).1.cell j = (d.cell j ^^ decide (j ∈ cells))) ∧
      (cells.foldl Display.plot (d, b)).2 = (b || cells.any d.cell) := by
  induction cells generalizing d b with
  | nil => simp
  | cons c rest ih =>
    obtain ⟨hc, hrest⟩ := List.nodup_cons.mp hnodup
    obtain ⟨hclt, hrestlt⟩ := List.forall_mem_cons.mp hlt
    obtain ⟨hcell, hhit⟩ := ih hrest hrestlt (d.toggle c) (b || d.cell c)
    have hother : rest.any (d.toggle c).cell = rest.any d.cell := by
      rw [Bool.eq_iff_iff, List.any_eq_true, List.any_eq_true]
      refine exists_congr fun j => and_congr_right fun hj => ?_
      have hne : c ≠ j := fun e => hc (e ▸ hj)
      simp [Display.cell_toggle d hclt, hne]
    refine ⟨fun j => ?_, ?_⟩
    · refine (hcell j).trans ?_
      rw [Display.cell_toggle d hclt]
      by_cases hj : c = j
      · subst hj; simp [hc]
      · simp [hj, Ne.symm hj]
    · refine hhit.trans ?_
      rw [hother, List.any_cons, Bool.or_assoc]

/-! ### The cells of a sprite -/

theorem Display.mem_rowCells {x0 cy k : Nat} {row : Byte} :
    k ∈ Display.rowCells x0 cy row ↔ ∃ c < 8, row.getLsbD (7 - c) = true ∧ k = cy * 64 + (x0 + c) % 64 := by
  simp [Display.rowCells, Display.cellIndex, @eq_comm _ k]

/-- Eight columns in a row do not wrap onto each other. -/
theorem Display.nodup_rowCells (x0 cy : Nat) (row : Byte) : (Display.rowCells x0 cy row).Nodup := by
  refine List.pairwise_filterMap.mpr (List.pairwise_lt_range.imp_of_mem fun {a b} ha hb hab k hk l hl => ?_)
  have ha8 : a < 8 := List.mem_range.mp ha
  have hb8 : b < 8 := List.mem_range.mp hb
  simp only [Option.ite_none_right_eq_some, Option.some.injEq, Display.cellIndex, Config.dispW] at hk hl
  omega

theorem Display.mem_spriteCells {x0 y0 r k : Nat} {rows : List Byte} :
    k ∈ Display.spriteCells x0 y0 r rows ↔ ∃ j row, rows[j]? = some row ∧ ∃ c < 8, row.getLsbD (7 - c) = true ∧
      k = (y0 + (r + j)) % 32 * 64 + (x0 + c) % 64 := by
  induction rows generalizing r with
  | nil => simp [Display.spriteCells]
  | cons row rest ih =>
    rw [Display.spriteCells, List.mem_append, Display.mem_rowCells, ih]
    constructor
    · rintro (h | ⟨j, row', hj, h⟩)
      · exact ⟨0, row, rfl, h⟩
      · exact ⟨j + 1, row', hj, by rwa [← Nat.add_assoc r, Nat.add_right_comm r]⟩
    · rintro ⟨j, row', hj, h⟩
      cases j with
      | zero => cases hj; exact .inl h
      | succ j => exact .inr ⟨j, row', hj, by rwa [← Nat.add_assoc r, Nat.add_right_comm r] at h⟩

theorem Display.lt_of_mem_spriteCells {x0 y0 r k : Nat} {rows : List Byte} (h : k ∈ Display.spriteCells x0 y0 r rows) :
    k < 2048 := by
  obtain ⟨j, row, -, c, -, -, rfl⟩ := Display.mem_spriteCells.mp h
  omega

/-- At most 32 rows do not wrap onto each other. -/
theorem Display.nodup_spriteCells (x0 y0 r : Nat) {rows : List Byte} (hlen : rows.length ≤ 32) :
    (Display.spriteCells x0 y0 r rows).Nodup := by
  induction rows generalizing r with
  | nil => exact List.nodup_nil
  | cons row rest ih =>
    rw [List.length_cons] at hlen
    refine List.nodup_append.mpr ⟨Display.nodup_rowCells _ _ _, ih (r + 1) (by omega), fun k hk l hl => ?_⟩
    obtain ⟨c, -, -, rfl⟩ := Display.mem_rowCells.mp hk
    obtain ⟨j, row', hj, c', -, -, rfl⟩ := Display.mem_spriteCells.mp hl
    obtain ⟨hjlen, -⟩ := List.getElem?_eq_some_iff.mp hj
    rw [Config.dispH]
    omega

/-! ### DRW -/

/-- The cells under the 1 pixels of the sprite that a DRW draws. -/
def coveredCells (x y : Reg) (n : Nibble) (s : State) : List Nat :=
  Display.spriteCells ((s.getV x).toNat % 64) ((s.getV y).toNat % 32) 0 (s.readBytes (s.ea 0) n.toNat)

section
variable (x y : Reg) (n : Nibble) (s : State)

/-- What a draw leaves on the display, and its collision bit (R183). -/
theorem drawn_eq :
    (∀ k, (drawn x y n s).1.cell k = (s.disp.cell k ^^ decide (k ∈ coveredCells x y n s))) ∧
      (drawn x y n s).2 = (coveredCells x y n s).any s.disp.cell := by
  have hlen : (s.readBytes (s.ea 0) n.toNat).length ≤ 32 := by
    have := n.isLt
    rw [State.readBytes, Memory.readBytes_length]
    omega
  obtain ⟨hcell, hhit⟩ := Display.foldl_plot (Display.nodup_spriteCells ((s.getV x).toNat % 64) ((s.getV y).toNat % 32) 0 hlen)
    (fun _ => Display.lt_of_mem_spriteCells) s.disp false
  exact ⟨hcell, hhit.trans (Bool.false_or _)⟩

variable {x y n s}

theorem State.getElem?_readBytes {a r k : Nat} {row : Byte} :
    (s.readBytes a k)[r]? = some row ↔ r < k ∧ s.readByte (a + r) = row := by
  rcases Nat.lt_or_ge r k with hr | hr
  · rw [State.readBytes, Memory.readBytes_getElem? _ _ _ _ _ hr, Option.some.injEq, State.readByte]
    exact (and_iff_right hr).symm
  · rw [List.getElem?_eq_none (by rw [State.readBytes, Memory.readBytes_length]; exact hr)]
    simp [Nat.not_lt.mpr hr]

theorem mem_coveredCells {k : Nat} :
    k ∈ coveredCells x y n s ↔ ∃ cx < 64, ∃ cy < 32, SpriteCovers x y n s cx cy ∧ k = cy * 64 + cx := by
  simp only [coveredCells, Display.mem_spriteCells, State.getElem?_readBytes, SpriteCovers]
  constructor
  · rintro ⟨r, row, ⟨hr, rfl⟩, c, hc, hbit, rfl⟩
    exact ⟨_, Nat.mod_lt _ (by decide), _, Nat.mod_lt _ (by decide), ⟨r, hr, c, hc, rfl, by rw [Nat.zero_add], hbit⟩, rfl⟩
  · rintro ⟨cx, -, cy, -, ⟨r, hr, c, hc, rfl, rfl, hbit⟩, rfl⟩
    exact ⟨r, _, ⟨hr, rfl⟩, c, hc, hbit, by rw [Nat.zero_add]⟩

/-- A cell's column and row are its own. -/
theorem mem_coveredCells_iff {cx cy : Nat} (hx : cx < 64) (hy : cy < 32) :
    cy * 64 + cx ∈ coveredCells x y n s ↔ SpriteCovers x y n s cx cy := by
  rw [mem_coveredCells]
  constructor
  · rintro ⟨cx', hx', cy', hy', hcovers, heq⟩
    obtain rfl : cx = cx' := by omega
    obtain rfl : cy = cy' := by omega
    exact hcovers
  · exact fun hcovers => ⟨cx, hx, cy, hy, hcovers, rfl⟩

/-- A covered cell with a property, by column and row. -/
theorem exists_mem_coveredCells {p : Nat → Prop} :
    (∃ k ∈ coveredCells x y n s, p k) ↔ ∃ cx < 64, ∃ cy < 32, SpriteCovers x y n s cx cy ∧ p (cy * 64 + cx) := by
  constructor
  · rintro ⟨k, hk, hp⟩
    obtain ⟨cx, hx, cy, hy, hcovers, rfl⟩ := mem_coveredCells.mp hk
    exact ⟨cx, hx, cy, hy, hcovers, hp⟩
  · rintro ⟨cx, hx, cy, hy, hcovers, hp⟩
    exact ⟨_, (mem_coveredCells_iff hx hy).mpr hcovers, hp⟩

theorem drawn_hit_iff :
    (drawn x y n s).2 = true ↔ ∃ cx < 64, ∃ cy < 32, SpriteCovers x y n s cx cy ∧ s.disp.cell (cy * 64 + cx) = true := by
  rw [(drawn_eq x y n s).2, List.any_eq_true]
  exact exists_mem_coveredCells

end

/-- Settles O48: the loop toggles the covered cells, and its collision bit says that one of them was set. -/
theorem drawTogglesTheCoveredCells : Obligations.DrawTogglesTheCoveredCells := by
  refine ⟨decodesAs_of_row 23 rfl (by decide), fun x y n s => ⟨fun hfit => ?_, fun hn hout => ?_⟩⟩
  · have hbound : n.toNat = 0 ∨ s.i.toNat + n.toNat ≤ 4096 := by rw [State.ea_eq] at hfit; omega
    have hexec := (exec_eq_next (.drwVxVyN x y n) s _).mpr ⟨hbound, rfl⟩
    have hvf : ((s.setDisp (drawn x y n s).1).setFlag (drawn x y n s).2).getV vf = flagByte (drawn x y n s).2 := by
      rw [State.getV_setFlag, if_pos rfl]
    refine ⟨_, hexec, fun cx hx cy hy => ?_, fun hset => ?_, fun hclear => ?_, fun r hr => ?_, exec_sameBut hexec⟩
    · have hcell := (drawn_eq x y n s).1 (cy * 64 + cx)
      rw [State.setFlag_disp, State.setDisp_disp, hcell, ← mem_coveredCells_iff hx hy]
      exact ⟨fun h => by simp [h], fun h => by simp [h]⟩
    · rw [hvf, drawn_hit_iff.mpr hset]
      rfl
    · have hmiss : (drawn x y n s).2 = false := by
        rw [← Bool.not_eq_true, drawn_hit_iff]
        rintro ⟨cx, hx, cy, hy, hcovers, hcell⟩
        rw [hclear cx hx cy hy hcovers] at hcell
        cases hcell
      rw [hvf, hmiss]
      rfl
    · rw [State.getV_setFlag, if_neg hr]
      rfl
  · obtain ⟨m, hm⟩ : ∃ m, n.toNat = m + 1 := ⟨n.toNat - 1, by omega⟩
    rw [hm, Nat.add_sub_cancel] at hout ⊢
    rw [exec, execDrwVxVyN, hm]
    exact withDataRange_of_lt_ea _ hout

/-- Between two equal draws the sprite, I and the coordinates stay as they are. -/
theorem coveredCells_congr {x y : Reg} {n : Nibble} {s t : State} (hx : t.getV x = s.getV x) (hy : t.getV y = s.getV y)
    (hi : t.i = s.i) (hmem : t.mem = s.mem) (hfont : t.fontRom = s.fontRom) :
    coveredCells x y n t = coveredCells x y n s := by
  rw [coveredCells, coveredCells, hx, hy, State.ea_eq, State.ea_eq, hi, State.readBytes, State.readBytes, hmem, hfont]

/-- Settles O49: toggling the same cells twice restores them, and the second draw sees them toggled once. -/
theorem drawingTwiceRestoresTheDisplay : Obligations.DrawingTwiceRestoresTheDisplay := by
  intro x y n s t u hx hy hfirst hsecond
  obtain ⟨-, ht⟩ := (exec_eq_next _ s t).mp hfirst
  obtain ⟨-, hu⟩ := (exec_eq_next _ t u).mp hsecond
  have hreg {r : Reg} (hr : r ≠ vf) : t.getV r = s.getV r := by
    rw [ht, State.getV_setFlag, if_neg hr]
    rfl
  have hcells : coveredCells x y n t = coveredCells x y n s :=
    coveredCells_congr (hreg hx) (hreg hy) (by rw [ht]; rfl) (by rw [ht]; rfl) (by rw [ht]; rfl)
  have htcell (k : Nat) : t.disp.cell k = (s.disp.cell k ^^ decide (k ∈ coveredCells x y n s)) := by
    rw [ht]
    exact (drawn_eq x y n s).1 k
  obtain ⟨hucell, hhit⟩ := drawn_eq x y n t
  rw [hcells] at hucell hhit
  refine ⟨BitVec.eq_of_getLsbD_eq fun k _ => ?_, ?_⟩
  · calc u.disp.cell k
        = (drawn x y n t).1.cell k := by rw [hu, State.setFlag_disp, State.setDisp_disp]
      _ = s.disp.cell k := by rw [hucell, htcell, Bool.xor_assoc, Bool.xor_self, Bool.xor_false]
  · rw [hu, State.getV_setFlag, if_pos rfl, flagByte_eq_one_iff, hhit, List.any_eq_true]
    refine Iff.trans (exists_congr fun k => and_congr_right fun hk => ?_)
      (exists_mem_coveredCells (p := fun k => s.disp.cell k = false))
    rw [htcell, decide_eq_true hk, Bool.xor_true, Bool.not_eq_true']

end Sys2Proof.Machine
end

-- The proofs of the statements about waits under premises on the host (40_engine_cycle.md R111).
section
/-! PROOFS. Waits on an endless run (40_engine_cycle.md R111): what one operation does to a timer and to a key latch, and that a
key wait stays where it is until a step finds a key pressed. -/

namespace Sys2Proof.Machine

/-! ### The schedule -/

theorem State.withSchedule_sameBut (s : State) (ops : List HostOp) : SameBut [.schedule] s { s with schedule := ops } := by
  intro p hp
  cases p with
  | schedule => exact absurd (by decide) hp
  | mem => exact State.readByte_congr rfl rfl
  | _ => rfl

/-! ### The two timers -/

/-- The delay timer DT and the sound timer ST (R28, R29), which count down alike. -/
inductive Timer where
  | delay
  | sound

/-- The part of the state that holds the timer. -/
def Timer.part : Timer → Part
  | .delay => .dt
  | .sound => .st

def Timer.value (s : State) : Timer → Byte
  | .delay => s.dt
  | .sound => s.st

theorem SameBut.timer_value {ps : List Part} {s t : State} (h : SameBut ps s t) {T : Timer} (hT : T.part ∉ ps) :
    T.value t = T.value s := by
  cases T with
  | delay => exact h .dt hT
  | sound => exact h .st hT

theorem Timer.value_tick (T : Timer) (s : State) : T.value s.tick = countDown (T.value s) := by
  cases T <;> rfl

theorem IsResetState.timer_value {font : Vector Byte 80} {image : List Byte} {s : State} (h : IsResetState font image s)
    (T : Timer) : T.value s = 0 := by
  cases T with
  | delay => exact h.timers.1
  | sound => exact h.timers.2

/-- What an operation makes of a timer that no step loads. -/
def timerAfter : HostOp → Byte → Byte
  | .tick, b => countDown b
  | .step, b | .keyWrite _ _, b => b
  | .reset, _ | .loadProgram _, _ => 0

theorem toNat_timerAfter_le (op : HostOp) (b : Byte) : (timerAfter op b).toNat ≤ b.toNat := by
  cases op with
  | tick => exact (toNat_countDown b).trans_le (Nat.sub_le _ _)
  | step => exact le_rfl
  | keyWrite k c => exact le_rfl
  | reset => exact Nat.zero_le _
  | loadProgram bytes => exact Nat.zero_le _

theorem Timer.value_perform (T : Timer) {s t : State} {op : HostOp} (h : s.perform op = .ok t)
    (hload : op = .step → ∀ i, s.fetches i → T.part ∉ i.writes) : T.value t = timerAfter op (T.value s) := by
  cases op with
  | step =>
    obtain ⟨i, hfetch, hframe⟩ := State.perform_step_sameBut h
    have hi : T.part ∉ i.writes := hload rfl i hfetch
    exact hframe.timer_value (by cases T <;> simpa [Timer.part] using hi)
  | tick => cases h; exact T.value_tick s
  | keyWrite k b => cases h; exact (s.keyWrite_sameBut k b).timer_value (by cases T <;> decide)
  | reset => cases h; exact s.resetOp_isResetState.timer_value T
  | loadProgram bytes =>
    rcases Nat.lt_or_ge 3584 bytes.length with hlt | hle
    · cases (s.loadProgram_of_lt_length hlt).symm.trans h
    · cases (s.loadProgram_of_length_le hle).symm.trans h
      exact (s.resetOp_isResetState.storeBytes (Memory.nil_wf _) hle).timer_value T

/-- A falling sequence that drops by one again and again ends at zero. -/
theorem eventually_zero_of_drops {f : Nat → Nat} (hle : ∀ n, f (n + 1) ≤ f n)
    (hdrop : ∀ n, ∃ m, n ≤ m ∧ f (m + 1) = f m - 1) : ∃ n, ∀ m, n ≤ m → f m = 0 := by
  have hanti : Antitone f := antitone_nat_of_succ_le hle
  obtain ⟨m, hm, hdropm⟩ := hdrop (Function.argmin f)
  have hleast : f (Function.argmin f) ≤ f (m + 1) := Function.argmin_le f (m + 1)
  have hfm : f m ≤ f (Function.argmin f) := hanti hm
  exact ⟨m, fun l hl => by have := hanti hl; omega⟩

section
variable {ops : Nat → HostOp} {σ : Nat → State} (hrun : EndlessRun ops σ)
include hrun

theorem EndlessRun.timer_succ {T : Timer} {n : Nat} (hload : ops n = .step → ∀ i, (σ n).fetches i → T.part ∉ i.writes) :
    T.value (σ (n + 1)) = timerAfter (ops n) (T.value (σ n)) := by
  have hstart := ((σ n).withSchedule_sameBut []).timer_value (T := T) (by cases T <;> decide)
  rw [T.value_perform (hrun.perform n) hload, hstart]

/-- Under weak fairness of ticks a timer that no step loads runs out. -/
theorem EndlessRun.timer_runs_out (hfair : TickFair ops) {T : Timer}
    (hload : ∀ n, ops n = .step → ∀ i, (σ n).fetches i → T.part ∉ i.writes) :
    ∃ n, ∀ m, n ≤ m → T.value (σ m) = 0 := by
  have hle (n : Nat) : (T.value (σ (n + 1))).toNat ≤ (T.value (σ n)).toNat := by
    rw [hrun.timer_succ (hload n)]
    exact toNat_timerAfter_le _ _
  have hdrop (n : Nat) : ∃ m, n ≤ m ∧ (T.value (σ (m + 1))).toNat = (T.value (σ m)).toNat - 1 := by
    obtain ⟨m, hm, htick⟩ := hfair n
    exact ⟨m, hm, by rw [hrun.timer_succ (hload m), htick, timerAfter, toNat_countDown]⟩
  obtain ⟨n, hn⟩ := eventually_zero_of_drops (f := fun n => (T.value (σ n)).toNat) hle hdrop
  exact ⟨n, fun m hm => BitVec.eq_of_toNat_eq (hn m hm)⟩

/-- Without ticks, resets and loads a timer that no step loads stands still. -/
theorem EndlessRun.timer_stays (hkeep : KeepsProgram ops) (hnotick : ∀ n, ops n ≠ .tick) {T : Timer}
    (hload : ∀ n, ops n = .step → ∀ i, (σ n).fetches i → T.part ∉ i.writes) (n : Nat) :
    T.value (σ n) = T.value (σ 0) := by
  induction n with
  | zero => rfl
  | succ n ih =>
    rw [hrun.timer_succ (hload n)]
    cases hop : ops n with
    | tick => exact absurd hop (hnotick n)
    | step => exact ih
    | keyWrite k b => exact ih
    | reset => exact absurd hop (hkeep n).1
    | loadProgram bytes => exact absurd hop ((hkeep n).2 bytes)

/-! ### The key latches -/

/-- A latch keeps its value until the host writes the other one, or resets or loads. -/
theorem EndlessRun.pressed_succ (hkeep : KeepsProgram ops) {n : Nat} {k : Fin 16} {b : Bool}
    (hk : (σ n).pressed k = b) (hwrite : ops n ≠ .keyWrite k (!b)) : (σ (n + 1)).pressed k = b := by
  have hperform := hrun.perform n
  have hframe := operationsWriteOnlyTheirState _ _ _ hperform
  cases hop : ops n with
  | step =>
    rw [hop] at hframe
    exact (congrArg (·[k]) (hframe .key (by decide))).trans hk
  | tick =>
    rw [hop] at hframe
    exact (congrArg (·[k]) (hframe .key (by decide))).trans hk
  | keyWrite j c =>
    rw [hop] at hperform hwrite
    rw [← OpResult.ok.inj hperform, State.pressed_keyWrite]
    split_ifs with hj
    · subst hj
      exact by_contra fun hc => hwrite (congrArg _ (Bool.eq_not.mpr hc))
    · exact hk
  | reset => exact absurd hop (hkeep n).1
  | loadProgram bytes => exact absurd hop ((hkeep n).2 bytes)

/-! ### The key wait -/

omit hrun in
theorem State.fetches.of_sameBut {ps : List Part} {s t : State} {i : Instr} (h : s.fetches i) (hframe : SameBut ps s t)
    (hpc : .pc ∉ ps) (hmem : .mem ∉ ps) : t.fetches i := by
  have hpc' : t.pc = s.pc := hframe .pc hpc
  have hread : ∀ a, t.readByte a = s.readByte a := hframe .mem hmem
  rw [State.fetches, hpc', hread, hread]
  exact h

/-- What an operation may change at a key wait that finds no key. -/
def waitParts : List Part := [.dt, .st, .key, .sound, .schedule, .events]

variable (hkeep : KeepsProgram ops) {x : Reg}
include hkeep

/-- At a key wait, an operation that is no step, or a step that finds no key, leaves PC, the registers and memory. -/
theorem EndlessRun.waiting_sameBut {n : Nat} (hfetch : (σ n).fetches (.ldVxK x))
    (hidle : ops n = .step → ∀ k, (σ n).pressed k = false) : SameBut waitParts (σ n) (σ (n + 1)) := by
  have hperform := hrun.perform n
  have hstart := (σ n).withSchedule_sameBut []
  cases hop : ops n with
  | step =>
    have hwait := State.fetches.perform_step_waiting (s := { σ n with schedule := [] }) hfetch (hidle hop)
    rw [hop, hwait] at hperform
    rw [← OpResult.ok.inj hperform]
    exact (hstart.append (State.emit_sameBut _ _)).mono (by decide)
  | tick =>
    rw [hop] at hperform
    rw [← OpResult.ok.inj hperform]
    exact (hstart.append (State.tick_sameBut _)).mono (by decide)
  | keyWrite k b =>
    rw [hop] at hperform
    rw [← OpResult.ok.inj hperform]
    exact (hstart.append (State.keyWrite_sameBut _ k b)).mono (by decide)
  | reset => exact absurd hop (hkeep n).1
  | loadProgram bytes => exact absurd hop ((hkeep n).2 bytes)

/-- A run that starts at a key wait is still there as long as no step has found a key. -/
theorem EndlessRun.waits_until (hfetch : (σ 0).fetches (.ldVxK x)) {n : Nat}
    (hidle : ∀ j < n, ops j = .step → ∀ k, (σ j).pressed k = false) : SameBut waitParts (σ 0) (σ n) := by
  induction n with
  | zero => exact SameBut.refl _ _
  | succ n ih =>
    have hsofar := ih fun j hj => hidle j (Nat.lt_succ_of_lt hj)
    have hthere : (σ n).fetches (.ldVxK x) := hfetch.of_sameBut hsofar (by decide) (by decide)
    exact hsofar.trans (hrun.waiting_sameBut hkeep hthere (hidle n (Nat.lt_succ_self n)))

/-- A key that is seen pressed by a step. -/
theorem EndlessRun.exists_step_pressed (hseen : KeyPressSeen ops) : ∃ n, ops n = .step ∧ ∃ k, (σ n).pressed k = true := by
  obtain ⟨k, m, n, hmn, hm, hn, hheld⟩ := hseen
  have hpress : (σ (m + 1)).pressed k = true := by
    have hperform := hrun.perform m
    rw [hm] at hperform
    rw [← OpResult.ok.inj hperform, State.pressed_keyWrite, if_pos rfl]
  have hstays : ∀ j, m + 1 ≤ j → j ≤ n → (σ j).pressed k = true := by
    intro j hj
    induction j, hj using Nat.le_induction with
    | base => exact fun _ => hpress
    | succ j hj ih => exact fun hjn => hrun.pressed_succ hkeep (ih (by omega)) (hheld j hj (by omega))
  exact ⟨n, hn, k, hstays n hmn le_rfl⟩

omit hkeep in
/-- The step at a key wait that finds a key (R193). -/
theorem EndlessRun.step_of_pressed {n : Nat} (hfetch : (σ n).fetches (.ldVxK x)) (hstep : ops n = .step)
    (hpressed : ∃ k, (σ n).pressed k = true) : (σ (n + 1)).pc = (σ n).pc + 2 ∧
      ∃ k, (σ n).pressed k = true ∧ ((σ (n + 1)).getV x).toNat = k.val := by
  have hsome : ∃ k, (σ n).leastPressed = some k := by
    rw [← Option.ne_none_iff_exists', ne_eq, State.leastPressed_eq_none]
    rintro hnone
    obtain ⟨k, hk⟩ := hpressed
    rw [hnone k] at hk
    cases hk
  obtain ⟨k, hk⟩ := hsome
  have hexec := exec_ldVxK_of_leastPressed (s := State.advancePc { σ n with schedule := [] }) hk x
  have hend := State.fetches.perform_step_of_exec_eq_next (s := { σ n with schedule := [] }) hfetch hexec
  have hperform := hrun.perform n
  rw [hstep, hend] at hperform
  rw [← OpResult.ok.inj hperform]
  refine ⟨rfl, k, (State.leastPressed_eq_some.mp hk).1, ?_⟩
  refine (congrArg BitVec.toNat (State.getV_setV _ x _ x)).trans ?_
  rw [if_pos rfl, toNat_keyByte]

end

/-! ### The obligations -/

/-- Settles O53: for both timers, a tick drops the value by one and no other operation raises it. -/
theorem fairTicksRunTheTimersOut : Obligations.FairTicksRunTheTimersOut := by
  intro ops σ hrun hfair
  exact ⟨fun hnever => hrun.timer_runs_out hfair (T := .delay) fun n hn i hi hw =>
      hnever n i hn hi (Instr.eq_of_writes_dt hw),
    fun hnever => hrun.timer_runs_out hfair (T := .sound) fun n hn i hi hw =>
      hnever n i hn hi (Instr.eq_of_writes_st hw)⟩

/-- Settles O54: up to the first step that finds a key the run stays at the wait, and that step ends it. -/
theorem keyWaitEndsWhenAPressIsSeen : Obligations.KeyWaitEndsWhenAPressIsSeen := by
  intro ops σ x hrun hkeep hseen hfetch
  have hexists := hrun.exists_step_pressed hkeep hseen
  obtain ⟨hstep, hpressed⟩ := Nat.find_spec hexists
  have hidle (j : Nat) (hj : j < Nat.find hexists) (hop : ops j = .step) (k : Fin 16) : (σ j).pressed k = false :=
    Bool.eq_false_iff.mpr fun hk => Nat.find_min hexists hj ⟨hop, k, hk⟩
  have hwait (j : Nat) (hj : j ≤ Nat.find hexists) : SameBut waitParts (σ 0) (σ j) :=
    hrun.waits_until hkeep hfetch fun l hl => hidle l (hl.trans_le hj)
  have hpc (j : Nat) (hj : j ≤ Nat.find hexists) : (σ j).pc = (σ 0).pc := hwait j hj .pc (by decide)
  obtain ⟨hend, hkey⟩ := hrun.step_of_pressed (hfetch.of_sameBut (hwait _ le_rfl) (by decide) (by decide)) hstep hpressed
  exact ⟨Nat.find hexists, hstep, hpc, by rw [hend, hpc _ le_rfl], hkey⟩

/-- Settles O55: without a tick the timers stand still, and without a key write of 1 no step finds a key. -/
theorem waitsDoNotEndWithoutTheHost : Obligations.WaitsDoNotEndWithoutTheHost := by
  intro ops σ hrun hkeep
  refine ⟨fun hnotick hnever n => ⟨?_, ?_⟩, fun x hfetch hfree hnowrite n => ?_⟩
  · exact hrun.timer_stays hkeep hnotick (T := .delay) (fun m hm i hi hw =>
      hnever m i hm hi ((Instr.eq_of_writes_dt hw).imp fun _ => .inl)) n
  · exact hrun.timer_stays hkeep hnotick (T := .sound) (fun m hm i hi hw =>
      hnever m i hm hi ((Instr.eq_of_writes_st hw).imp fun _ => .inr)) n
  · have hreleased (m : Nat) (k : Fin 16) : (σ m).pressed k = false := by
      induction m with
      | zero => exact hfree k
      | succ m ih => exact hrun.pressed_succ hkeep ih (hnowrite m k)
    have hwait := hrun.waits_until hkeep hfetch (n := n) fun j _ _ => hreleased j
    exact ⟨hwait .pc (by decide), hwait .v (by decide)⟩

end Sys2Proof.Machine
end
